-- ==== Sys2Proof/Word.lean ====
section
/-! DEFINITION. The plain value types of the block: bytes, register addresses, binary32 operand words, and the
extended rationals every decibel quantity is taken in (00_scope.md R13, 41_gain_quantizer.md R131). -/

namespace Sys2Proof

/-- `u8` of R13. -/
abbrev Byte := BitVec 8

/-- `u16`, the address of a codec register (R50). -/
abbrev Addr := BitVec 16

/-- The 32 bits of an IEEE 754 binary32 operand (R86). -/
abbrev F32 := BitVec 32

/-- A rational number extended with the two infinities and NaN (R86, R131). -/
inductive ExtRat where
  | nan
  | negInf
  | posInf
  | fin (q : Rat)
  deriving DecidableEq, Repr

end Sys2Proof
end

