-- ==== Sys2Proof/Config.lean ====
section
/-! DEFINITION. The configuration of one instance of the block: the instance parameters of R9, the chip parameters
of R10, and the free value an unknown codec register reads as (R39). Constants of the instance: no operation writes
them (R20, R243). -/

namespace Sys2Proof

/-- SampleRateClass (R27). -/
inductive Rate where
  | r32k
  | r44k1
  | r48k
  | r96k
  deriving DecidableEq, Repr

/-- The five GainChannels (R32). -/
inductive Channel where
  | lineIn
  | auxIn
  | micIn
  | lineOut
  | hpOut
  deriving DecidableEq, Repr

/-- A side of a channel (R10, R19). -/
inductive Side where
  | left
  | right
  deriving DecidableEq, Repr

/-- Where one side of a channel lives: `REG_ADDR(c,s)`, `CODE_LSB(c,s)`, `EN_MASK(c,s)` (R10, R33). -/
structure SideParams where
  regAddr : Addr
  codeLsb : Nat
  enMask : Byte
  deriving DecidableEq, Repr

/-- The parameter record of a channel (R10, R33). Decibel quantities are exact rationals (R131). -/
structure ChannelParams where
  minDb : Rat
  maxDb : Rat
  step : Rat
  zeroCode : Int
  codeWidth : Nat
  left : SideParams
  right : SideParams
  deriving DecidableEq, Repr

/-- RegisterCommand (R84): a register address and a payload. -/
structure RegisterCommand where
  addr : Addr
  payload : List Byte
  deriving DecidableEq, Repr

/-- CommandTableRow (R82): a register address and exactly one payload byte. -/
structure Row where
  addr : Addr
  value : Byte
  deriving DecidableEq, Repr

/-- What a board hook answers (R15, R30, R31). -/
inductive HookResult (α : Type) where
  | boardError
  | ok (v : α)
  deriving DecidableEq, Repr

/-- `PLL_CFG` as plain data: its answer for each of the four rates (R30). -/
structure PllTable where
  r32k : HookResult (List RegisterCommand)
  r44k1 : HookResult (List RegisterCommand)
  r48k : HookResult (List RegisterCommand)
  r96k : HookResult (List RegisterCommand)
  deriving DecidableEq, Repr

/-- The configuration (R9, R10). `devAddr` is the `u8` of the transport interface, legal from 0 to 127 (R26,
90_conflicts.md C4). `pollInterval` is timing only; no rule reads it (R28). `micIn` matters only with `hasMic`. -/
structure Config where
  devAddr : BitVec 8
  rate : Rate
  pollMax : Nat
  pollInterval : Nat
  hasMic : Bool
  clkselAddr : Addr
  clkselDefault : Byte
  clkselPll : Byte
  lockAddr : Addr
  lockMask : Byte
  pllCfg : PllTable
  boardTable : HookResult (List Row)
  lineIn : ChannelParams
  auxIn : ChannelParams
  micIn : ChannelParams
  lineOut : ChannelParams
  hpOut : ChannelParams
  deriving DecidableEq, Repr

/-- DESIGN CHOICE (log 6). The free value a read returns when it is answered from a codec register whose content no
rule gives (R39, U18: "a draw"): nothing is known of it. The argument counts the draws. -/
opaque Config.codecByte : Nat → BitVec 8

/-- `LINE_OUT` and `HP_OUT` of `CFG_EX` but for the two register addresses (95_test_vectors.md 1.1). -/
def Config.exampleOutput (l r : Addr) : ChannelParams :=
  { minDb := -57, maxDb := 6, step := 1, zeroCode := 57, codeWidth := 6,
    left := { regAddr := l, codeLsb := 2, enMask := 0x02#8 },
    right := { regAddr := r, codeLsb := 2, enMask := 0x02#8 } }

/-- `CFG_EX` of 95_test_vectors.md 1.1: an illustration chosen by the spec, no value of any chip. `MIC_IN` has no
parameters there because `HAS_MIC` is false; the record holds `LINE_IN`'s in its place, which nothing reads. -/
def Config.cfgEx : Config :=
  let lineIn : ChannelParams :=
    { minDb := -12, maxDb := mkRat 141 4, step := mkRat 3 4, zeroCode := 16, codeWidth := 6,
      left := { regAddr := 0x400E#16, codeLsb := 2, enMask := 0x01#8 },
      right := { regAddr := 0x400F#16, codeLsb := 2, enMask := 0x01#8 } }
  { devAddr := 0x38#8, rate := .r48k, pollMax := 3, pollInterval := 0, hasMic := false,
    clkselAddr := 0x4000#16, clkselDefault := 0x01#8, clkselPll := 0x0F#8,
    lockAddr := 0x4002#16, lockMask := 0x02#8,
    pllCfg :=
      { r32k := .boardError, r44k1 := .boardError,
        r48k := .ok [{ addr := 0x4002#16, payload := [0x00#8, 0x7D#8, 0x00#8, 0x0C#8, 0x23#8, 0x01#8] }],
        r96k := .boardError },
    boardTable := .ok [⟨0x4019#16, 0x13#8⟩, ⟨0x401C#16, 0x21#8⟩, ⟨0x402A#16, 0x03#8⟩],
    lineIn := lineIn,
    auxIn :=
      { minDb := -6, maxDb := 3, step := 3, zeroCode := 2, codeWidth := 2,
        left := { regAddr := 0x400B#16, codeLsb := 0, enMask := 0x10#8 },
        right := { regAddr := 0x400B#16, codeLsb := 2, enMask := 0x20#8 } },
    micIn := lineIn,
    lineOut := Config.exampleOutput 0x4025#16 0x4026#16,
    hpOut := Config.exampleOutput 0x4023#16 0x4024#16 }

end Sys2Proof
end

