-- ==== Sys2Proof/Syntax.lean ====
section
/-! DEFINITION. The instructions of the block (00_scope.md R4): the host commands, the sequencer transitions and the
internal operations, one constructor per row of opcode_table.json, in its order. -/

namespace Sys2Proof

/-- The error kinds (R210). -/
inductive ErrKind where
  | busError
  | boardError
  | pllLockTimeout
  | notReady
  | illegalCommand
  deriving DecidableEq, Repr

/-- A function from byte to byte, the operand `f` of RMW (R144), as plain data: the two forms SET_GAIN uses (R145),
and any function at all by its table of 256 values. -/
inductive ByteFn where
  | pack (c : Channel) (s : Side) (k : Byte) (m : Bool)
  | packBoth (c : Channel) (kl kr : Byte) (m : Bool)
  | table (t : Vector Byte 256)
  deriving DecidableEq, Repr

/-- The instructions. A host command carries every field of its command word but `RSV` (R85); `start` and the
reserved opcodes carry the operand bits too, since acceptance latches them (R190) although nothing reads them (R91). -/
inductive Instr where
  | start (left right : F32) (mute : Bool)
  | setLineInGain (left right : F32) (mute : Bool)
  | setAuxInGain (left right : F32) (mute : Bool)
  | setMicInGain (left right : F32) (mute : Bool)
  | setLineOutGain (left right : F32) (mute : Bool)
  | setHpOutGain (left right : F32) (mute : Bool)
  | reservedOp6 (left right : F32) (mute : Bool)
  | reservedOp7 (left right : F32) (mute : Bool)
  | t1
  | t2
  | t3
  | t4
  | t5
  | t6
  | ready
  | encode (a : Addr) (p : List Byte)
  | send (a : Addr) (p : List Byte)
  | sendTable (rows : List Row)
  | readReg (a : Addr)
  | clamp (c : Channel) (d : ExtRat)
  | rtn (q : Rat)
  | qcode (c : Channel) (d : ExtRat)
  | quantize (c : Channel) (l r : ExtRat)
  | pack (c : Channel) (s : Side) (t : Byte) (k : Byte) (m : Bool)
  | rmw (a : Addr) (f : ByteFn)
  | setGain (c : Channel) (l r : ExtRat) (m : Bool)
  | raise (e : ErrKind) (i : BitVec 16)
  deriving DecidableEq, Repr

end Sys2Proof
end

