-- ==== Sys2Proof/Machine/Operands.lean ====
section
/-! DEFINITION. Operand forms and the arithmetic of the Gain Quantizer (41_gain_quantizer.md), pure functions of the
configuration and the operands: the binary32 operand (R86), CLAMP, RTN, QCODE (R132 to R134), the masks of R11, the
enable bits (R140) and PACK (R143). -/

namespace Sys2Proof

/-- The parameter record of a channel (R33). -/
def Config.chan (cfg : Config) : Channel → ChannelParams
  | .lineIn => cfg.lineIn
  | .auxIn => cfg.auxIn
  | .micIn => cfg.micIn
  | .lineOut => cfg.lineOut
  | .hpOut => cfg.hpOut

/-- The parameters of one side of a channel record. -/
def ChannelParams.side (p : ChannelParams) : Side → SideParams
  | .left => p.left
  | .right => p.right

/-- `REG_ADDR(c,s)` (R10). -/
def Config.regAddr (cfg : Config) (c : Channel) (s : Side) : Addr :=
  ((cfg.chan c).side s).regAddr

/-- `EN_MASK(c,s)` (R10). -/
def Config.enMask (cfg : Config) (c : Channel) (s : Side) : Byte :=
  ((cfg.chan c).side s).enMask

/-- `CODE_LSB(c,s)` (R10). -/
def Config.codeLsb (cfg : Config) (c : Channel) (s : Side) : Nat :=
  ((cfg.chan c).side s).codeLsb

/-- `FIELD_MASK(c,s) = ((2^CODE_WIDTH(c)) - 1) << CODE_LSB(c,s)` (R11). -/
def Config.fieldMask (cfg : Config) (c : Channel) (s : Side) : Byte :=
  BitVec.ofNat 8 (2 ^ (cfg.chan c).codeWidth - 1) <<< cfg.codeLsb c s

/-- `OWN_MASK(c,s) = FIELD_MASK(c,s) OR EN_MASK(c,s)` (R11). -/
def Config.ownMask (cfg : Config) (c : Channel) (s : Side) : Byte :=
  cfg.fieldMask c s ||| cfg.enMask c s

/-- A channel is in use when it is always exposed or, for `MIC_IN`, when `HAS_MIC` is true (R32). -/
def Config.inUse (cfg : Config) (c : Channel) : Bool :=
  if c = .micIn then cfg.hasMic else true

/-- The channels in use. -/
def Config.channels (cfg : Config) : List Channel :=
  [.lineIn, .auxIn, .micIn, .lineOut, .hpOut].filter cfg.inUse

/-- `PLL_CFG(RATE)` (R30). -/
def Config.pllCommands (cfg : Config) : HookResult (List RegisterCommand) :=
  match cfg.rate with
  | .r32k => cfg.pllCfg.r32k
  | .r44k1 => cfg.pllCfg.r44k1
  | .r48k => cfg.pllCfg.r48k
  | .r96k => cfg.pllCfg.r96k

/-- The commands of an `Ok` answer of a hook; none for `BoardError`. -/
def HookResult.entries {α : Type} : HookResult (List α) → List α
  | .boardError => []
  | .ok l => l

/-- The value of a binary32 operand, exact (R86). With exponent field `e` and fraction `f` the magnitude is
`(2^23 + f) * 2^(e - 150)`, and `f * 2^(-149)` for `e = 0`. PRESUMED (log 27): the spec takes the format from general
knowledge. -/
def f32Value (d : F32) : ExtRat :=
  let e := (d.extractLsb' 23 8).toNat
  let f := (d.extractLsb' 0 23).toNat
  let neg := d.getLsbD 31
  if e = 255 then
    if f = 0 then (if neg then .negInf else .posInf) else .nan
  else
    let m : Rat :=
      if e = 0 then mkRat f (2 ^ 149)
      else if 150 ≤ e then mkRat ((2 ^ 23 + f) * 2 ^ (e - 150)) 1
      else mkRat (2 ^ 23 + f) (2 ^ (150 - e))
    .fin (if neg then -m else m)

/-- `CLAMP(c, d)`, the saturation (R132): NaN and everything below the range go to `MIN_DB`. -/
def ChannelParams.clampDb (p : ChannelParams) : ExtRat → Rat
  | .nan => p.minDb
  | .negInf => p.minDb
  | .posInf => p.maxDb
  | .fin d => if d < p.minDb then p.minDb else if p.maxDb < d then p.maxDb else d

/-- `RTN(q)`: nearest integer, a tie goes to the integer of smaller magnitude (R133). -/
def roundTiesToZero (q : Rat) : Int :=
  let a := if q < 0 then -q else q
  let n := a.floor
  let m := if mkRat 1 2 < a - n then n + 1 else n
  if q < 0 then -m else m

/-- `QCODE(c, d) = ZERO_CODE(c) + RTN(CLAMP(c, d) / STEP(c))` (R134). -/
def ChannelParams.code (p : ChannelParams) (d : ExtRat) : Int :=
  p.zeroCode + roundTiesToZero (p.clampDb d / p.step)

/-- `MIN_CODE(c)` (R134). -/
def ChannelParams.minCode (p : ChannelParams) : Int := p.code (.fin p.minDb)

/-- `MAX_CODE(c)` (R134). -/
def ChannelParams.maxCode (p : ChannelParams) : Int := p.code (.fin p.maxDb)

/-- `DB_OF(c, k)`, the gain a code stands for (R134). -/
def ChannelParams.dbOf (p : ChannelParams) (k : Int) : Rat := ((k - p.zeroCode : Int) : Rat) * p.step

/-- The 8-bit code register value of one side (R21 `LCODE`, `RCODE`; R135). -/
def Config.codeByte (cfg : Config) (c : Channel) (d : ExtRat) : Byte :=
  BitVec.ofInt 8 ((cfg.chan c).code d)

/-- `ENB(c, s, m)`: the enable bits, 0 when muted (R140). -/
def Config.enableBits (cfg : Config) (c : Channel) (s : Side) (m : Bool) : Byte :=
  if m then 0#8 else cfg.enMask c s

/-- `PACK(c, s, t, k, m)` (R143). -/
def Config.packByte (cfg : Config) (c : Channel) (s : Side) (t k : Byte) (m : Bool) : Byte :=
  (t &&& ~~~ cfg.ownMask c s) ||| ((k <<< cfg.codeLsb c s) &&& cfg.fieldMask c s) ||| cfg.enableBits c s m

/-- The byte an RMW writes back for the byte it read (R144, R145). -/
def ByteFn.apply (cfg : Config) : ByteFn → Byte → Byte
  | .pack c s k m, t => cfg.packByte c s t k m
  | .packBoth c kl kr m, t => cfg.packByte c .right (cfg.packByte c .left t kl m) kr m
  | .table tab, t => tab[t.toNat]'(t.isLt)

/-- `(b AND LOCK_MASK) = LOCK_MASK`, the lock test (R29, R163). -/
def Config.lockTest (cfg : Config) (b : Byte) : Bool := (b &&& cfg.lockMask) == cfg.lockMask

end Sys2Proof
end

