-- ==== Sys2Proof/Machine/State.lean ====
section
/-! DEFINITION. The state as plain data: the block state (10_state.md R21 to R25, R34, R35), the environment state
behind the bus (R39, 93_implementation_defined.md U1, U3), the inputs still to come, and the observation (R72, R259);
the refusals; and the state after reset (R42). -/

namespace Sys2Proof.Machine

/-- The sequencer state `ST` (R22). The value 7 is never taken. -/
inductive SeqState where
  | reset
  | clockSourceDefault
  | pllConfiguring
  | pllLocked
  | clockSourcePll
  | boardConfiguring
  | ready
  deriving DecidableEq, Repr

/-- The status of an operation (R15, R211). -/
inductive Status where
  | ok
  | err (k : ErrKind)
  deriving DecidableEq, Repr

/-- The codec registers whose content is known, as (address, byte) cells with addresses strictly rising; an address
that is not listed is unknown (log 6). -/
abbrev Memory := List Host.Cell

/-- The canonical form: addresses strictly rising, inside the 16-bit space (R50). -/
def Memory.wf (m : Memory) : Bool :=
  decide (m.Pairwise fun x y => x.1 < y.1) && m.all fun c => decide (c.1 < 2 ^ 16)

/-- One bus transaction the block issues: a write of frame bytes, which says whether it is a PLL write (T2), or a read
of a register address (R52, R53). -/
inductive BusReq where
  | write (pll : Bool) (bytes : List Byte)
  | read (addr : Addr)
  deriving DecidableEq, Repr

/-- One answer of the transport (R71, ports `bus_rsp_ok`, `bus_rsp_data` of R99): failure; success, with the byte a
read returns; success, where a read returns what the codec register holds. -/
inductive BusAnswer where
  | fail
  | ok (data : Byte)
  | held
  deriving DecidableEq, Repr

/-- Where answers come from: any list of answers (R71), or the mock bus with its lock script and fail set (R68). -/
inductive Transport where
  | script (answers : List BusAnswer)
  | mock (lockScript : List Byte) (failSet : List Nat)
  deriving DecidableEq, Repr

/-- What another agent does to the codec between two transactions of the block (R16, R39, R60 item 4): a write of
another client, a change the codec makes itself (`none`: to a byte no rule gives), the codec's own reset. -/
inductive EnvEvent where
  | clientWrite (a : Addr) (p : List Byte)
  | codecChange (a : Addr) (v : Option Byte)
  | codecReset
  deriving DecidableEq, Repr

/-- The outside world in one step: `rst` sampled high or low (R240), and the events before the block's own action. -/
structure Stimulus where
  rst : Bool
  events : List EnvEvent
  deriving DecidableEq, Repr

/-- The environment (R39, R71): the known codec registers; the answers and stimuli still to come; the count of draws;
"no START since the codec's own reset" and "registers not made any value by a repeated START" (R244, U3); "a locked
read since the last PLL write" and the sticky mark of the clock hazard (U1). -/
structure Env where
  regs : Memory
  transport : Transport
  stimuli : List Stimulus
  draws : Nat
  codecFresh : Bool
  codecKnown : Bool
  lockSeen : Bool
  clkHazard : Bool
  deriving DecidableEq, Repr

/-- One entry of the bus trace (R72): the device address and frame of a write and whether it returned `Ok`; the device
and register address of a read and the byte it returned, `none` for `Fail`. -/
inductive TraceEntry where
  | write (dev : BitVec 8) (bytes : List Byte) (ok : Bool)
  | read (dev : BitVec 8) (addr : Addr) (got : Option Byte)
  deriving DecidableEq, Repr

/-- What an internal operation returned to its caller (40_command_encoder.md, 41_gain_quantizer.md; log 14):
`pending` while its transactions are not all done. -/
inductive OpResult where
  | none
  | pending
  | ok
  | okByte (b : Byte)
  | fail
  | failAt (k : Nat)
  | frame (bytes : List Byte)
  | db (q : Rat)
  | int (z : Int)
  | codes (l r : Byte)
  | byte (b : Byte)
  deriving DecidableEq, Repr

/-- What a write transaction came to; `wait` when the transport has not answered (R69). -/
inductive WriteAns where
  | wait
  | ok
  | fail
  deriving DecidableEq, Repr

/-- What a read transaction came to. -/
inductive ReadAns where
  | wait
  | ok (b : Byte)
  | fail
  deriving DecidableEq, Repr

/-- How far an operation of several transactions has come with its current one. -/
inductive Progress where
  | wait
  | more
  | done
  | fail
  deriving DecidableEq, Repr

/-- Which sides one read-modify-write of SET_GAIN carries (R145): one, or both when they share a register. -/
inductive Carry where
  | left
  | right
  | both
  deriving DecidableEq, Repr

/-- One read-modify-write of SET_GAIN: the channel and the sides it carries. -/
structure GainMove where
  ch : Channel
  carry : Carry
  deriving DecidableEq, Repr

/-- What the block takes up next: nothing, an instruction, or a command word that is no instruction (R89). -/
inductive Fetched where
  | idle
  | run (i : Instr)
  | illegal (w : BitVec 72)
  deriving DecidableEq, Repr

/-- The registers a transaction's rule still has to write once it is done: what they will hold (R14). -/
structure Due where
  st : SeqState
  idx : BitVec 16
  tmp : Byte
  pollCnt : BitVec 16
  entered : Bool
  deriving DecidableEq, Repr

/-- The state. -/
structure State where
  /-- The configuration of the instance (R20 (a)): constant. -/
  cfg : Config
  /-- `ST` (R22). -/
  st : SeqState
  /-- `BUSY` (R23). -/
  busy : Bool
  /-- `FAILED` (R24). -/
  failed : Bool
  /-- `ERR_KIND` (R25). -/
  errKind : Status
  /-- `ERR_INDEX` (R25). -/
  errIndex : BitVec 16
  /-- `OP` (R21). -/
  op : BitVec 3
  /-- `MUTE` (R21). -/
  mute : Bool
  /-- `LEFT_DB` (R21). -/
  leftDb : F32
  /-- `RIGHT_DB` (R21). -/
  rightDb : F32
  /-- `CH` (R21). -/
  ch : Channel
  /-- `LCODE` (R21). -/
  lcode : Byte
  /-- `RCODE` (R21). -/
  rcode : Byte
  /-- `TMP` (R21). -/
  tmp : Byte
  /-- `POLL_CNT` (R34). -/
  pollCnt : BitVec 16
  /-- `IDX` (R35). -/
  idx : BitVec 16
  /-- The model's own: the current transition has done its entry actions (log 4). -/
  entered : Bool
  /-- The model's own: the register writes that the rules place after the last transaction of the operation in progress.
  They happen together with the next transaction (R14; log 3). -/
  due : Option Due
  /-- The model's own: the value the last internal operation returned (log 14). -/
  res : OpResult
  /-- The model's own: the internal operation that is not done yet, and how many of its transactions are (log 15). -/
  call : Option (Instr × Nat)
  /-- The command words the host offers, the first one on the port (R99). -/
  cmdIn : List (BitVec 72)
  /-- The response words produced (R92, R259). -/
  responses : List (BitVec 32)
  /-- The bus trace (R72). -/
  trace : List TraceEntry
  /-- The environment (R20 (c)). -/
  env : Env
  deriving DecidableEq, Repr

/-- No rule of the spec stops the block by a fault: an error kind ends an operation and is reported (R210, R216), and
the clock hazard is a mark (U1). -/
inductive Fault where
  deriving DecidableEq, Repr

/-- Why the model gives no meaning. -/
inductive Refusal where
  /-- Raised by `exec` for an instruction with no meaning yet. Safe. -/
  | notModelled (mnemonic : String)
  /-- Raised by `step`: the configuration fails a condition of R11 ("a configuration that fails one is refused, it is
  given no meaning"). Safe. -/
  | configIllFormed
  /-- Raised by ENCODE, SEND and T2 for an empty payload (R110 "outside the operation's domain", U9 `refuse`). Safe. -/
  | emptyPayload
  /-- Raised by an internal operation whose operand is `MIC_IN` while `HAS_MIC` is false: the channel has no
  parameters (R10, R33, R145 "channel `c` (in use)"). Safe. -/
  | channelNotInUse
  deriving DecidableEq, Repr

/-- The environment the block's reset leaves when nothing about it is known (R242): no register known, no input. -/
def Env.unknown : Env :=
  { regs := [], transport := .script [], stimuli := [], draws := 0, codecFresh := false, codecKnown := true,
    lockSeen := false, clkHazard := false }

/-- The state of R42 for any configuration. DESIGN CHOICE (log 2): the latches and working registers, which the spec
leaves unspecified, are 0 (`CH` is `LINE_IN`). -/
def State.resetWith (cfg : Config) : State :=
  { cfg := cfg, st := .reset, busy := false, failed := false, errKind := .ok, errIndex := 0#16,
    op := 0#3, mute := false, leftDb := 0#32, rightDb := 0#32, ch := .lineIn, lcode := 0#8, rcode := 0#8, tmp := 0#8,
    pollCnt := 0#16, idx := 0#16, entered := false, due := none, res := .none, call := none, cmdIn := [],
    responses := [], trace := [], env := Env.unknown }

/-- The machine right after reset (R42, R240). DESIGN CHOICE (log 1): its configuration is the spec's `CFG_EX`. -/
def State.reset : State := State.resetWith Config.cfgEx

end Sys2Proof.Machine
end

