-- ==== Sys2Proof/Machine/Environment.lean ====
section
/-! DEFINITION. The environment behind the bus (R39, R71): the known codec registers, how a transaction is answered by
a script of answers or by the mock bus (R68), what other agents do (R60 item 4), and the marks of U1 and U3. -/

namespace Sys2Proof.Machine

/-- The byte of a register, when it is known. -/
def Memory.read : Memory → Nat → Option Byte
  | [], _ => none
  | c :: m, a => if c.1 = a then some c.2 else Memory.read m a

/-- The register now holds the byte. -/
def Memory.write : Memory → Nat → Byte → Memory
  | [], a, v => [(a, v)]
  | c :: m, a, v =>
    if a < c.1 then (a, v) :: c :: m
    else if a = c.1 then (a, v) :: m
    else c :: Memory.write m a v

/-- The register is unknown from now on. -/
def Memory.erase (m : Memory) (a : Nat) : Memory := m.filter (fun c => c.1 != a)

/-- `n` registers from `a` on are unknown; addresses wrap at 16 bits. -/
def Memory.eraseFrom (m : Memory) (a : Addr) : Nat → Memory
  | 0 => m
  | n + 1 => Memory.eraseFrom (m.erase a.toNat) (a + 1) n

/-- The register address of a frame, high byte first (R54, R80). -/
def frameAddr : List Byte → Addr
  | hi :: lo :: _ => hi ++ lo
  | _ => 0#16

/-- The payload of a frame (R80). -/
def framePayload (bytes : List Byte) : List Byte := bytes.drop 2

/-- The environment is the mock bus. -/
def Env.isMock (e : Env) : Bool :=
  match e.transport with
  | .script _ => false
  | .mock _ _ => true

/-- What one codec register holds, `none` when no rule says. An unlisted register of the mock holds 0
(95_test_vectors.md 1.2). -/
def Env.peek (e : Env) (a : Nat) : Option Byte :=
  match e.regs.read a with
  | some b => some b
  | none => if e.isMock then some 0#8 else none

/-- The canonical form of the registers: `Memory.wf`, and no entry that equals what an unlisted register reads as. -/
def Env.wf (e : Env) : Bool := e.regs.wf && (!e.isMock || e.regs.all fun c => c.2 != 0#8)

/-- A one-byte write took effect (U3: nothing is learned once a repeated START has made every register any value). In
the mock, writing what an unlisted register reads as removes the entry. DESIGN CHOICE (log 33), unsafe: two different
addresses are two registers, so every other register stays known; R59 leaves aliasing to the chip (N3). -/
def Env.learn (a : Addr) (v : Byte) (e : Env) : Env :=
  if e.isMock then
    { e with regs := if v = 0#8 then e.regs.erase a.toNat else e.regs.write a.toNat v }
  else if e.codecKnown then { e with regs := e.regs.write a.toNat v }
  else e

/-- The registers a write of `n` bytes may have touched hold any value (R67, U5); the mock leaves them (R68). -/
def Env.forget (a : Addr) (n : Nat) (e : Env) : Env :=
  if e.isMock then e else { e with regs := e.regs.eraseFrom a n }

/-- A write took effect at the codec. DESIGN CHOICE (log 8) for a payload longer than one byte: the registers it may
cover are unknown (N4); the mock logs it and changes nothing (R68). -/
def Env.store (a : Addr) (p : List Byte) (e : Env) : Env :=
  match p with
  | [v] => e.learn a v
  | p => e.forget a p.length

/-- The marks of U1 for a write that reaches the codec: the hazard is marked when `CLKSEL_PLL` is written to
`CLKSEL_ADDR` with no locked read since the last PLL write (log 12). -/
def Env.noteWrite (cfg : Config) (pll : Bool) (a : Addr) (p : List Byte) (e : Env) : Env :=
  let seen := e.lockSeen && !pll
  { e with lockSeen := seen,
           clkHazard := e.clkHazard || (a == cfg.clkselAddr && p.contains cfg.clkselPll && !seen) }

/-- The mark of U1 for a read the block got an answer to. -/
def Env.noteRead (cfg : Config) (a : Addr) (got : Option Byte) (e : Env) : Env :=
  match got with
  | none => e
  | some b => { e with lockSeen := e.lockSeen || (a == cfg.lockAddr && cfg.lockTest b) }

/-- The lock script after a read of `LOCK_ADDR`: the last byte repeats for ever (R68). -/
def nextLockScript : List Byte → List Byte
  | _ :: c :: l => c :: l
  | l => l

/-- The environment after a read issued to the mock: a read of `LOCK_ADDR` uses up its byte of the lock script (log
13). -/
def Env.popLock (lockAddr a : Addr) (e : Env) : Env :=
  match e.transport with
  | .script _ => e
  | .mock script fails => if a = lockAddr then { e with transport := .mock (nextLockScript script) fails } else e

/-- The free value of a byte no rule gives (R39; log 6). -/
def Env.draw (e : Env) : Byte × Env := (Config.codecByte e.draws, { e with draws := e.draws + 1 })

/-- A register read that is answered with what the register holds: a draw when that is unknown (R39, R68). -/
def Env.heldByte (a : Addr) (e : Env) : Byte × Env :=
  match e.peek a.toNat with
  | some b => (b, e)
  | none => e.draw

/-- The answer to a write, with the ordinal of the transaction (R68, R71); `none` while there is none (R69), and
the environment is then as it was (log 37). -/
def Env.answerWrite (ord : Nat) (bytes : List Byte) (e : Env) : Option (Bool × Env) :=
  let a := frameAddr bytes
  let p := framePayload bytes
  match e.transport with
  | .script [] => none
  | .script (.fail :: l) => some (false, ({ e with transport := .script l }).forget a p.length)
  | .script (_ :: l) => some (true, ({ e with transport := .script l }).store a p)
  | .mock _ fails => if fails.contains ord then some (false, e) else some (true, e.store a p)

/-- The answer to a read: the byte, or `none` inside for a failure (R68, R71). -/
def Env.answerRead (lockAddr : Addr) (ord : Nat) (a : Addr) (e : Env) : Option (Option Byte × Env) :=
  match e.transport with
  | .script [] => none
  | .script (.fail :: l) => some (none, { e with transport := .script l })
  | .script (.ok b :: l) => some (some b, { e with transport := .script l })
  | .script (.held :: l) =>
    let r := ({ e with transport := .script l }).heldByte a
    some (some r.1, r.2)
  | .mock script fails =>
    let e1 := e.popLock lockAddr a
    if fails.contains ord then some (none, e1)
    else if a = lockAddr then
      match script with
      | [] => some (some e1.draw.1, e1.draw.2)
      | b :: _ => some (some b, e1)
    else some (some (e1.heldByte a).1, (e1.heldByte a).2)

/-- Another agent's event (R16, R39, R60 item 4). A client's write to an address of `PLL_CFG(RATE)` is a PLL write for
the marks of U1 (log 12). The codec's own reset leaves every register unknown: the datasheet values are not in the
source (R39, R244, N2). DESIGN CHOICE (log 31) under the mock bus, whose `M` R68 lets only the block's writes change: a
client's write and a change to a given byte set `M` there, a change to a byte no rule gives sets it to a free value, and
the codec's own reset leaves `M` as it is. -/
def Env.event (cfg : Config) (ev : EnvEvent) (e : Env) : Env :=
  match ev with
  | .clientWrite a p =>
    (e.noteWrite cfg (cfg.pllCommands.entries.any fun k => k.addr == a) a p).store a p
  | .codecChange a (some v) => e.learn a v
  | .codecChange a none => if e.isMock then e.draw.2.learn a e.draw.1 else e.forget a 1
  | .codecReset =>
    { e with regs := if e.isMock then e.regs else [], codecFresh := true, codecKnown := true, lockSeen := false }

/-- The events of one step, in order. -/
def Env.happen (cfg : Config) (evs : List EnvEvent) (e : Env) : Env :=
  evs.foldl (fun e ev => e.event cfg ev) e

/-- The codec when a START is accepted: after one that is not the first since its own reset every register holds any
value (U3, R169); the mock is a plain map. -/
def Env.noteStart (e : Env) : Env :=
  if e.isMock then { e with codecFresh := false }
  else if e.codecFresh then { e with codecFresh := false }
  else { e with regs := [], codecKnown := false }

/-- A write that reset cuts off: its effect on the codec is unspecified, as for a failed write (R241, U11). -/
def Env.cutOff (cfg : Config) (pll : Bool) (bytes : List Byte) (e : Env) : Env :=
  (e.noteWrite cfg pll (frameAddr bytes) (framePayload bytes)).forget (frameAddr bytes) (framePayload bytes).length

end Sys2Proof.Machine
end

