-- ==== Sys2Proof/Decode.lean ====
section
/-! DEFINITION. Decoding and encoding: the 72-bit command word `CMD` (30_encoding.md R85, R88), the 3-bit state word
of the sequencer (R96), the 24-bit table row (R82), and the opcode table's numbering of them. Internal operations have
no encoding ("never decoded from a word", 30_encoding.md). -/

namespace Sys2Proof

/-- A word the block decodes: a command word, or its own state register during START. -/
inductive CodeWord where
  | cmd (w : BitVec 72)
  | st (v : BitVec 3)
  deriving DecidableEq, Repr

/-- Why a word is no instruction: `RSV != 0` (R89), or `ST = 7` (R22). -/
inductive DecodeError where
  | reservedBits
  | reservedState
  deriving DecidableEq, Repr

/-- `RSV`, bits 71:68 (R85). -/
def cmdRsv (w : BitVec 72) : BitVec 4 := w.extractLsb' 68 4

/-- `MUTE`, bit 67 (R85). -/
def cmdMute (w : BitVec 72) : Bool := w.getLsbD 67

/-- `OP`, bits 66:64 (R85). -/
def cmdOp (w : BitVec 72) : BitVec 3 := w.extractLsb' 64 3

/-- `LEFT_DB`, bits 63:32 (R85). -/
def cmdLeft (w : BitVec 72) : F32 := w.extractLsb' 32 32

/-- `RIGHT_DB`, bits 31:0 (R85). -/
def cmdRight (w : BitVec 72) : F32 := w.extractLsb' 0 32

/-- The command word of its fields (R85). -/
def cmdWord (rsv : BitVec 4) (mute : Bool) (op : BitVec 3) (left right : F32) : BitVec 72 :=
  rsv ++ BitVec.ofBool mute ++ op ++ left ++ right

/-- The command of an opcode and its operand fields (R88). -/
def opInstr (op : BitVec 3) (left right : F32) (mute : Bool) : Instr :=
  match op.toNat with
  | 0 => .start left right mute
  | 1 => .setLineInGain left right mute
  | 2 => .setAuxInGain left right mute
  | 3 => .setMicInGain left right mute
  | 4 => .setLineOutGain left right mute
  | 5 => .setHpOutGain left right mute
  | 6 => .reservedOp6 left right mute
  | _ => .reservedOp7 left right mute

/-- Decode of a command word (R88, R89). -/
def decodeCmd (w : BitVec 72) : Except DecodeError Instr :=
  if cmdRsv w = 0#4 then .ok (opInstr (cmdOp w) (cmdLeft w) (cmdRight w) (cmdMute w))
  else .error .reservedBits

/-- Decode of the sequencer state (R96). -/
def decodeSt (v : BitVec 3) : Except DecodeError Instr :=
  match v.toNat with
  | 0 => .ok .t1
  | 1 => .ok .t2
  | 2 => .ok .t3
  | 3 => .ok .t4
  | 4 => .ok .t5
  | 5 => .ok .t6
  | 6 => .ok .ready
  | _ => .error .reservedState

/-- The decoder. -/
def decode : CodeWord → Except DecodeError Instr
  | .cmd w => decodeCmd w
  | .st v => decodeSt v

/-- The encoder: the word of an instruction that has one. -/
def encode : Instr → Option CodeWord
  | .start l r m => some (.cmd (cmdWord 0 m 0 l r))
  | .setLineInGain l r m => some (.cmd (cmdWord 0 m 1 l r))
  | .setAuxInGain l r m => some (.cmd (cmdWord 0 m 2 l r))
  | .setMicInGain l r m => some (.cmd (cmdWord 0 m 3 l r))
  | .setLineOutGain l r m => some (.cmd (cmdWord 0 m 4 l r))
  | .setHpOutGain l r m => some (.cmd (cmdWord 0 m 5 l r))
  | .reservedOp6 l r m => some (.cmd (cmdWord 0 m 6 l r))
  | .reservedOp7 l r m => some (.cmd (cmdWord 0 m 7 l r))
  | .t1 => some (.st 0)
  | .t2 => some (.st 1)
  | .t3 => some (.st 2)
  | .t4 => some (.st 3)
  | .t5 => some (.st 4)
  | .t6 => some (.st 5)
  | .ready => some (.st 6)
  | .encode _ _ => none
  | .send _ _ => none
  | .sendTable _ => none
  | .readReg _ => none
  | .clamp _ _ => none
  | .rtn _ => none
  | .qcode _ _ => none
  | .quantize _ _ _ => none
  | .pack _ _ _ _ _ => none
  | .rmw _ _ => none
  | .setGain _ _ _ _ => none
  | .raise _ _ => none

/-- The decoder's answer as an option. -/
def decodeWord (c : CodeWord) : Option Instr :=
  match decode c with
  | .ok i => some i
  | .error _ => none

/-- The instruction of an opcode-table word (log 17): 72 bits are a command word, at most 8 bits a state word whose
bits above bit 2 are 0. Internal operations have no word. -/
def decodeTableWord (nbits w : Nat) : Option Instr :=
  if nbits = 72 then decodeWord (.cmd (BitVec.ofNat 72 w))
  else if 3 ≤ nbits ∧ nbits ≤ 8 ∧ w < 8 then decodeWord (.st (BitVec.ofNat 3 w))
  else none

/-- The stored form of a table row, `{address, value}` (R82). -/
def encodeRow (r : Row) : BitVec 24 := r.addr ++ r.value

/-- The row of its stored form (R82). -/
def decodeRow (w : BitVec 24) : Row := { addr := w.extractLsb' 8 16, value := w.extractLsb' 0 8 }

/-- The 2-bit code of a sample rate (R27). -/
def Rate.toCode : Rate → BitVec 2
  | .r32k => 0
  | .r44k1 => 1
  | .r48k => 2
  | .r96k => 3

end Sys2Proof
end

