-- ==== Sys2Proof/Machine/Flags.lean ====
section
/-! DEFINITION. The flags and status of the block: the codes of `ST` and of the status (R22, R211), the response word
(R92), and the end of an operation, which writes `BUSY`, `ERR_KIND` and `ERR_INDEX` (R23, R25). -/

namespace Sys2Proof.Machine

/-- The 3-bit value of `ST` (R22). -/
def SeqState.code : SeqState → BitVec 3
  | .reset => 0
  | .clockSourceDefault => 1
  | .pllConfiguring => 2
  | .pllLocked => 3
  | .clockSourcePll => 4
  | .boardConfiguring => 5
  | .ready => 6

/-- The sequencer state of a value of `ST`; 7 is reserved (R22). -/
def SeqState.ofCode (v : BitVec 3) : Option SeqState :=
  match v.toNat with
  | 0 => some .reset
  | 1 => some .clockSourceDefault
  | 2 => some .pllConfiguring
  | 3 => some .pllLocked
  | 4 => some .clockSourcePll
  | 5 => some .boardConfiguring
  | 6 => some .ready
  | _ => none

/-- The status code of R211. -/
def Status.code : Status → BitVec 3
  | .ok => 0
  | .err .busError => 1
  | .err .boardError => 2
  | .err .pllLockTimeout => 3
  | .err .notReady => 4
  | .err .illegalCommand => 5

/-- The response word of the current flags (R92). -/
def State.rspWord (s : State) : BitVec 32 :=
  s.errIndex ++ 0#4 ++ BitVec.ofBool s.failed ++ s.st.code ++ 0#5 ++ s.errKind.code

/-- The operation in progress is START (R88, R160). -/
def State.inStart (s : State) : Bool := s.busy && s.op == 0#3

/-- The end of an operation: status, index, `BUSY <- 0`, one response word (R92, R259). -/
def State.finish (k : Status) (i : BitVec 16) (s : State) : State :=
  let s1 := { s with errKind := k, errIndex := i, busy := false }
  { s1 with responses := s1.responses ++ [s1.rspWord] }

/-- Acceptance latches the operands and sets `BUSY` (R190). -/
def State.latch (op : BitVec 3) (left right : F32) (mute : Bool) (s : State) : State :=
  { s with op := op, mute := mute, leftDb := left, rightDb := right, busy := true }

/-- The command word that the latches stand for (R85, R190; `RSV` is not latched). -/
def State.latchedWord (s : State) : BitVec 72 := cmdWord 0 s.mute s.op s.leftDb s.rightDb

end Sys2Proof.Machine
end

