-- ==== Sys2Proof/Machine/Ops.lean ====
section
/-! DEFINITION. The named operations: the bus primitives (R52, R53), SEND, READ_REG, one row of SEND_TABLE, one
transaction of RMW and of SET_GAIN (40_command_encoder.md, 41_gain_quantizer.md), entering and leaving a transition
(42_bringup_sequencer.md), `raise` and `ret` (R216, R92), which transaction comes next (R35), and when the register
writes that follow a transaction happen (R14): `hold` and `settle`, at the end, which `step` puts around every
transaction. -/

namespace Sys2Proof.Machine

/-! ### The bus -/

/-- `ENCODE(a, p)`: the write frame, address high byte first (R80, R110). -/
def encodeFrame (a : Addr) (p : List Byte) : List Byte :=
  a.extractLsb' 8 8 :: a.extractLsb' 0 8 :: p

/-- The environment's answer to a write issued now; `none` while there is none. -/
def State.answerWrite (s : State) (bytes : List Byte) : Option (Bool × Env) :=
  s.env.answerWrite s.trace.length bytes

/-- The environment's answer to a read issued now; `none` while there is none. -/
def State.answerRead (s : State) (a : Addr) : Option (Option Byte × Env) :=
  s.env.answerRead s.cfg.lockAddr s.trace.length a

/-- An answered write: the trace entry and the marks (R72, U1). -/
def wrote (pll : Bool) (bytes : List Byte) (ok : Bool) (e : Env) (s : State) : State :=
  { s with env := e.noteWrite s.cfg pll (frameAddr bytes) (framePayload bytes),
           trace := s.trace ++ [.write s.cfg.devAddr bytes ok] }

/-- An answered read: the trace entry and the mark (R72, U1). -/
def gotRead (a : Addr) (got : Option Byte) (e : Env) (s : State) : State :=
  { s with env := e.noteRead s.cfg a got, trace := s.trace ++ [.read s.cfg.devAddr a got] }

/-- `BusWrite(DEV_ADDR, bytes)`, one transaction (R52). A write that is not answered leaves the block waiting (R69); no
rule says what it has done to the codec. DESIGN CHOICE (log 37): nothing, every codec register is as it was. -/
def busWrite (pll : Bool) (bytes : List Byte) (s : State) : State × WriteAns :=
  match s.answerWrite bytes with
  | none => (s, .wait)
  | some (ok, e) => (wrote pll bytes ok e s, if ok then .ok else .fail)

/-- `BusRead(DEV_ADDR, a)`, one transaction (R53). -/
def busRead (a : Addr) (s : State) : State × ReadAns :=
  match s.answerRead a with
  | none => (s, .wait)
  | some (none, e) => (gotRead a none e s, .fail)
  | some (some b, e) => (gotRead a (some b) e s, .ok b)

/-- `SEND(a, p)`: one write, `IDX` advances on `Ok` (R111), in a run of the block together with the next transaction
(`hold`, R14). -/
def send (pll : Bool) (a : Addr) (p : List Byte) (s : State) : State × WriteAns :=
  match busWrite pll (encodeFrame a p) s with
  | (s1, .ok) => ({ s1 with idx := s1.idx + 1 }, .ok)
  | r => r

/-- `READ_REG(a)`: one read, `IDX` advances on `Ok` (R113), in a run of the block together with the next transaction
(`hold`, R14). -/
def readReg (a : Addr) (s : State) : State × ReadAns :=
  match busRead a s with
  | (s1, .ok b) => ({ s1 with idx := s1.idx + 1 }, .ok b)
  | r => r

/-- Row `k` of `SEND_TABLE(rows)`, when `k` rows are sent (R112); past the last row it is done. -/
def sendRow (k : Nat) (rows : List Row) (s : State) : State × Progress :=
  match rows[k]? with
  | none => (s, .done)
  | some row =>
    match send false row.addr [row.value] s with
    | (s1, .wait) => (s1, .wait)
    | (s1, .fail) => (s1, .fail)
    | (s1, .ok) => (s1, if rows.length ≤ k + 1 then .done else .more)

/-! ### The quantizer and the read-modify-write -/

/-- `QUANTIZE(c, l, r)` (R135). -/
def quantize (c : Channel) (l r : ExtRat) (s : State) : State :=
  { s with lcode := s.cfg.codeByte c l, rcode := s.cfg.codeByte c r }

/-- The transaction of `RMW(a, f)` after `n` transactions of the caller's read-modify-writes, which come in pairs: the
read while `n` is even, the write-back while it is odd (R144). In a run of the block `TMP` is written together with the
write-back (`hold`, R14). DESIGN CHOICE (log 34): after the write-back `TMP` still holds the byte read, until the next
read; R144 says only that it is not kept. -/
def rmw (n : Nat) (a : Addr) (f : ByteFn) (s : State) : State × Progress :=
  if n % 2 = 1 then
    match send false a [f.apply s.cfg s.tmp] s with
    | (s1, .wait) => (s1, .wait)
    | (s1, .fail) => (s1, .fail)
    | (s1, .ok) => (s1, .done)
  else
    match readReg a s with
    | (s1, .wait) => (s1, .wait)
    | (s1, .fail) => (s1, .fail)
    | (s1, .ok t) => ({ s1 with tmp := t }, .more)

/-- The read-modify-writes of SET_GAIN: left then right, or one that carries both (R145). -/
def gainMoves (cfg : Config) (c : Channel) : List GainMove :=
  if cfg.regAddr c .left = cfg.regAddr c .right then [⟨c, .both⟩] else [⟨c, .left⟩, ⟨c, .right⟩]

/-- The read-modify-writes of T6: the four exposed paths in their order (R166). -/
def defaultMoves (cfg : Config) : List GainMove :=
  [Channel.lineIn, Channel.auxIn, Channel.lineOut, Channel.hpOut].flatMap (gainMoves cfg)

/-- The register a move reads and writes (R145). -/
def GainMove.addr (cfg : Config) (mv : GainMove) : Addr :=
  match mv.carry with
  | .left => cfg.regAddr mv.ch .left
  | .right => cfg.regAddr mv.ch .right
  | .both => cfg.regAddr mv.ch .left

/-- The byte function of a move (R145). -/
def GainMove.fn (mv : GainMove) (lcode rcode : Byte) (m : Bool) : ByteFn :=
  match mv.carry with
  | .left => .pack mv.ch .left lcode m
  | .right => .pack mv.ch .right rcode m
  | .both => .packBoth mv.ch lcode rcode m

/-- The entry of SET_GAIN, which happens with its first transaction: `CH` and the two codes (R145). No rule gives what
the three registers hold once SET_GAIN has ended: nothing is carried over (R21, R152). DESIGN CHOICE (log 39): they still
hold what was written here, until the next entry or reset. -/
def enterGain (n : Nat) (mv : GainMove) (l r : ExtRat) (s : State) : State :=
  if n % 2 = 1 ∨ mv.carry = .right then s else quantize mv.ch l r { s with ch := mv.ch }

/-- The transaction of a list of SET_GAINs after `n` of them (R145, R166). -/
def gainStep (n : Nat) (moves : List GainMove) (l r : ExtRat) (m : Bool) (s : State) : State × Progress :=
  match moves[n / 2]? with
  | none => (s, .done)
  | some mv =>
    let s1 := enterGain n mv l r s
    match rmw n (mv.addr s1.cfg) (mv.fn s1.lcode s1.rcode m) s1 with
    | (s2, .done) => (s2, if 2 * moves.length ≤ n + 1 then .done else .more)
    | r => r

/-! ### Taking an error, and returning -/

/-- `raise E(i)`, the abort (R216): the operation ends with the error's code and index and a response; a START also
sets `FAILED`. `ST` stays. -/
def raise (start : Bool) (e : ErrKind) (i : BitVec 16) (s : State) : State :=
  State.finish (.err e) i { s with failed := s.failed || start }

/-- `ret OK`: the operation ends with `OK` and index 0 (R14, R92). -/
def ret (s : State) : State := State.finish .ok 0 s

/-! ### Transitions -/

/-- The entry actions of a transition, done with its first transaction: `IDX <- 0` (R14, R35; log 4). -/
def enter (s : State) : State :=
  if s.entered then s else { s with idx := 0, entered := true }

/-- The entry actions of T3: also `POLL_CNT <- 0` (R34, R163). -/
def enterPoll (s : State) : State :=
  if s.entered then s else { s with idx := 0, pollCnt := 0, entered := true }

/-- `ST <- target`: the transition is complete (R14, R96); in a run of the block together with the first transaction of
the next one (`hold`). -/
def goto (target : SeqState) (s : State) : State :=
  { s with st := target, entered := false }

/-! ### Command acceptance -/

/-- The channel of a gain command's opcode (R191). -/
def channelOf (op : BitVec 3) : Channel :=
  match op.toNat with
  | 1 => .lineIn
  | 2 => .auxIn
  | 3 => .micIn
  | 4 => .lineOut
  | _ => .hpOut

/-- The acceptance of a command word that is illegal: latched, no transaction, `IllegalCommand`; `ST` and `FAILED`
stay (R89, R191, R215). -/
def acceptIllegal (op : BitVec 3) (left right : F32) (mute : Bool) (s : State) : State :=
  raise false .illegalCommand 0 (s.latch op left right mute)

/-! ### What follows a transaction (R14) -/

/-- The entry actions of the transition in progress, which happen with its first transaction (R35; log 4). -/
def entry (s : State) : State :=
  if s.inStart then if s.st = .pllConfiguring then enterPoll s else enter s else s

/-- A transition with no transaction is complete with the transition after it: an empty PLL list (R162), an empty table
(R165). -/
def skipEmpty (s : State) : State :=
  if s.inStart then
    match s.st with
    | .clockSourceDefault =>
      match s.cfg.pllCommands with
      | .ok [] => goto .pllConfiguring (enter s)
      | _ => s
    | .clockSourcePll =>
      match s.cfg.boardTable with
      | .ok [] => goto .boardConfiguring (enter s)
      | _ => s
    | _ => s
  else s

/-- The register writes that are due, done; `ST` is written by a START only (R14, R22). -/
def writeDue (d : Due) (s : State) : State :=
  { s with st := if s.inStart then d.st else s.st, idx := d.idx, tmp := d.tmp, pollCnt := d.pollCnt,
           entered := d.entered, due := none }

/-- The state in which the next transaction is issued: nothing is due any more (R14). -/
def settle (s : State) : State :=
  match s.due with
  | none => s
  | some d => skipEmpty (writeDue d s)

/-- The state after a transaction that another one follows: what it wrote beside the bus, the codec and the entry
actions is still due (R14). `w` is the state it was issued in, `t` the state its rule makes of it. -/
def hold (w t : State) : State :=
  { t with st := w.st, idx := w.idx, tmp := w.tmp, pollCnt := w.pollCnt, entered := w.entered,
           due := some ⟨t.st, t.idx, t.tmp, t.pollCnt, t.entered⟩ }

/-! ### The next transaction -/

/-- The transaction of the current move (R145). -/
def gainRequest (n : Nat) (moves : List GainMove) (m : Bool) (s : State) : Option BusReq :=
  match moves[n / 2]? with
  | none => none
  | some mv =>
    if n % 2 = 1 then
      some (.write false (encodeFrame (mv.addr s.cfg) [(mv.fn s.lcode s.rcode m).apply s.cfg s.tmp]))
    else some (.read (mv.addr s.cfg))

/-- The transaction of the current position: `ST` and `IDX`, in a gain command `OP` and `IDX`, select it (R35, R96). -/
def requestOf (s : State) : Option BusReq :=
  if !s.busy then none
  else if s.op = 0#3 then
    match s.st with
    | .reset => some (.write false (encodeFrame s.cfg.clkselAddr [s.cfg.clkselDefault]))
    | .clockSourceDefault =>
      match s.cfg.pllCommands.entries[(enter s).idx.toNat]? with
      | none => none
      | some k => some (.write true (encodeFrame k.addr k.payload))
    | .pllConfiguring => some (.read s.cfg.lockAddr)
    | .pllLocked => some (.write false (encodeFrame s.cfg.clkselAddr [s.cfg.clkselPll]))
    | .clockSourcePll =>
      match s.cfg.boardTable.entries[(enter s).idx.toNat]? with
      | none => none
      | some row => some (.write false (encodeFrame row.addr [row.value]))
    | .boardConfiguring => gainRequest (enter s).idx.toNat (defaultMoves s.cfg) false s
    | .ready => none
  else gainRequest s.idx.toNat (gainMoves s.cfg (channelOf s.op)) s.mute s

/-- The transaction the block issues next. -/
def nextRequest (s : State) : Option BusReq := requestOf (settle s)

/-- What one step of the operation in progress leaves, when executing it in `u`, the settled form of `v`, answers `t`:
an acceptance, the end of an operation and a transition without a transaction as `t` says; a transaction with another to
follow as `hold` says (R14); and while the transaction is not answered nothing of the block changes (R69),
nor of the codec (log 37). -/
def land (v u t : State) : State :=
  if !u.busy then t
  else if t.trace.length = u.trace.length then if t.busy && (requestOf u).isSome then v else t
  else if t.busy then hold (entry u) t
  else t

/-- `land` on what executing an instruction answers. -/
def landOutcome (v u : State) : Host.Outcome State Fault Refusal → Host.Outcome State Fault Refusal
  | .next t => .next (land v u t)
  | .fault r => .fault r
  | .refused r => .refused r

/-- The block's reset (R240, R241, R242): every block register at its reset value, the operation abandoned without a
response, a write in flight cut off; the codec, the host's offers and the records of what was observed stay. No rule says
what becomes of a word offered in this step, to an idle block too (R190, R240). DESIGN CHOICE (log 41): it is neither
accepted nor lost, and runs after the reset. -/
def applyRst (s : State) : State :=
  { State.resetWith s.cfg with
    env := (match nextRequest s with
      | some (.write pll bytes) => s.env.cutOff s.cfg pll bytes
      | _ => s.env),
    cmdIn := s.cmdIn, responses := s.responses, trace := s.trace }

end Sys2Proof.Machine
end

