-- ==== Sys2Proof/Machine/Calls.lean ====
section
/-! DEFINITION. An internal operation of several transactions executed by itself: its position, and what it reports to
its caller (log 14, log 15). -/

namespace Sys2Proof.Machine

/-- How many transactions of the internal operation `i` are done: 0 unless it is the one in progress. -/
def State.callAt (i : Instr) (s : State) : Nat :=
  match s.call with
  | none => 0
  | some c => if c.1 = i then c.2 else 0

/-- What the internal operation `i` leaves after its transaction `n`; `bad` is what it returns when that failed. -/
def report (i : Instr) (n : Nat) (bad : OpResult) (r : State × Progress) : State :=
  match r with
  | (s1, .wait) => { s1 with res := .pending }
  | (s1, .more) => { s1 with res := .pending, call := some (i, n + 1) }
  | (s1, .done) => { s1 with res := .ok, call := none }
  | (s1, .fail) => { s1 with res := bad, call := none }

end Sys2Proof.Machine
end

