-- ==== Sys2Proof/Machine/CommandEncoder.lean ====
section
/-! DEFINITION. The Command Encoder's operations as instructions (40_command_encoder.md). Each leaves the value it
returns in `res` (log 14). -/

namespace Sys2Proof.Machine

/-- ENCODE (R110). -/
def execEncode (a : Addr) (p : List Byte) (s : State) : Host.Outcome State Fault Refusal :=
  if p.isEmpty then .refused .emptyPayload else .next { s with res := .frame (encodeFrame a p) }

/-- SEND (R111). -/
def execSend (a : Addr) (p : List Byte) (s : State) : Host.Outcome State Fault Refusal :=
  if p.isEmpty then .refused .emptyPayload
  else
    match send false a p s with
    | (s1, .wait) => .next { s1 with res := .pending }
    | (s1, .ok) => .next { s1 with res := .ok }
    | (s1, .fail) => .next { s1 with res := .fail }

/-- SEND_TABLE: row `k`, from 0 on, whatever `IDX` holds (R112). -/
def execSendTable (rows : List Row) (s : State) : Host.Outcome State Fault Refusal :=
  let k := s.callAt (.sendTable rows)
  .next (report (.sendTable rows) k (.failAt k) (sendRow k rows s))

/-- READ_REG (R113). -/
def execReadReg (a : Addr) (s : State) : Host.Outcome State Fault Refusal :=
  match readReg a s with
  | (s1, .wait) => .next { s1 with res := .pending }
  | (s1, .ok b) => .next { s1 with res := .okByte b }
  | (s1, .fail) => .next { s1 with res := .fail }

end Sys2Proof.Machine
end

