-- ==== Sys2Proof/Machine/Facade.lean ====
section
/-! DEFINITION. The Codec Facade (43_codec_facade.md): acceptance and dispatch of the five gain commands and their
body, the reserved opcodes, and RAISE (60_exceptions.md). -/

namespace Sys2Proof.Machine

/-- The latches hold exactly this command: it is the one in progress. -/
def State.latches (s : State) (op : BitVec 3) (left right : F32) (mute : Bool) : Bool :=
  s.op == op && s.leftDb == left && s.rightDb == right && s.mute == mute

/-- The current transaction of the gain command in progress (R192). -/
def gainBody (c : Channel) (s : State) : State :=
  match gainStep s.idx.toNat (gainMoves s.cfg c) (f32Value s.leftDb) (f32Value s.rightDb) s.mute s with
  | (s1, .wait) => s1
  | (s1, .more) => s1
  | (s1, .done) => ret s1
  | (s1, .fail) => raise false .busError s1.idx s1

/-- A gain command (R190 to R192): accepted when `BUSY = 0`, checked for legality, then readiness; its acceptance
clears `IDX` (R35), also when it then ends with `NotReady`; while it is in progress, its current transaction; while
another operation is in progress, held. -/
def gainCommand (op : BitVec 3) (left right : F32) (mute : Bool) (s : State) : State :=
  if s.busy then
    if s.latches op left right mute then gainBody (channelOf op) s else s
  else if !s.cfg.inUse (channelOf op) then acceptIllegal op left right mute s
  else if s.st ≠ .ready then raise false .notReady 0 { s.latch op left right mute with idx := 0 }
  else { s.latch op left right mute with idx := 0 }

/-- SET_LINE_IN_GAIN (R193). -/
def execSetLineInGain (left right : F32) (mute : Bool) (s : State) : Host.Outcome State Fault Refusal :=
  .next (gainCommand 1 left right mute s)

/-- SET_AUX_IN_GAIN (R194). -/
def execSetAuxInGain (left right : F32) (mute : Bool) (s : State) : Host.Outcome State Fault Refusal :=
  .next (gainCommand 2 left right mute s)

/-- SET_MIC_IN_GAIN (R195): illegal when `HAS_MIC` is false (R90). -/
def execSetMicInGain (left right : F32) (mute : Bool) (s : State) : Host.Outcome State Fault Refusal :=
  .next (gainCommand 3 left right mute s)

/-- SET_LINE_OUT_GAIN (R196). -/
def execSetLineOutGain (left right : F32) (mute : Bool) (s : State) : Host.Outcome State Fault Refusal :=
  .next (gainCommand 4 left right mute s)

/-- SET_HP_OUT_GAIN (R197). -/
def execSetHpOutGain (left right : F32) (mute : Bool) (s : State) : Host.Outcome State Fault Refusal :=
  .next (gainCommand 5 left right mute s)

/-- A reserved opcode: accepted when `BUSY = 0` and answered with `IllegalCommand` (R89); held otherwise (R190). -/
def reservedCommand (op : BitVec 3) (left right : F32) (mute : Bool) (s : State) : State :=
  if s.busy then s else acceptIllegal op left right mute s

/-- RESERVED_OP6 (R89). -/
def execReservedOp6 (left right : F32) (mute : Bool) (s : State) : Host.Outcome State Fault Refusal :=
  .next (reservedCommand 6 left right mute s)

/-- RESERVED_OP7 (R89). -/
def execReservedOp7 (left right : F32) (mute : Bool) (s : State) : Host.Outcome State Fault Refusal :=
  .next (reservedCommand 7 left right mute s)

/-- RAISE (R216): the operation in progress ends with the error; `FAILED` is set when that operation is START. -/
def execRaise (e : ErrKind) (i : BitVec 16) (s : State) : Host.Outcome State Fault Refusal :=
  .next (raise s.inStart e i s)

end Sys2Proof.Machine
end

