-- ==== Sys2Proof/Machine/GainQuantizer.lean ====
section
/-! DEFINITION. The Gain Quantizer's operations as instructions (41_gain_quantizer.md). Each leaves the value it
returns in `res` (log 14); QUANTIZE also writes `LCODE` and `RCODE`, SET_GAIN and RMW the working registers. -/

namespace Sys2Proof.Machine

/-- An internal operation on a channel that is not in use has no parameters to work on (R10, R145; log 20). -/
def withChannel (c : Channel) (s : State) (next : State) : Host.Outcome State Fault Refusal :=
  if s.cfg.inUse c then .next next else .refused .channelNotInUse

/-- CLAMP (R132). -/
def execClamp (c : Channel) (d : ExtRat) (s : State) : Host.Outcome State Fault Refusal :=
  withChannel c s { s with res := .db ((s.cfg.chan c).clampDb d) }

/-- RTN (R133). -/
def execRtn (q : Rat) (s : State) : Host.Outcome State Fault Refusal :=
  .next { s with res := .int (roundTiesToZero q) }

/-- QCODE (R134). -/
def execQcode (c : Channel) (d : ExtRat) (s : State) : Host.Outcome State Fault Refusal :=
  withChannel c s { s with res := .int ((s.cfg.chan c).code d) }

/-- QUANTIZE (R135). -/
def execQuantize (c : Channel) (l r : ExtRat) (s : State) : Host.Outcome State Fault Refusal :=
  withChannel c s { quantize c l r s with res := .codes (s.cfg.codeByte c l) (s.cfg.codeByte c r) }

/-- PACK (R143). -/
def execPack (c : Channel) (sd : Side) (t k : Byte) (m : Bool) (s : State) : Host.Outcome State Fault Refusal :=
  withChannel c s { s with res := .byte (s.cfg.packByte c sd t k m) }

/-- RMW: its current transaction, the read first (R144). -/
def execRmw (a : Addr) (f : ByteFn) (s : State) : Host.Outcome State Fault Refusal :=
  let n := s.callAt (.rmw a f)
  let t := report (.rmw a f) n .fail (rmw n a f s)
  match f with
  | .pack c _ _ _ => withChannel c s t
  | .packBoth c _ _ _ => withChannel c s t
  | .table _ => .next t

/-- SET_GAIN: its current transaction, from the first on (R145). -/
def execSetGain (c : Channel) (l r : ExtRat) (m : Bool) (s : State) : Host.Outcome State Fault Refusal :=
  let n := s.callAt (.setGain c l r m)
  withChannel c s (report (.setGain c l r m) n .fail (gainStep n (gainMoves s.cfg c) l r m s))

end Sys2Proof.Machine
end

