-- ==== Sys2Proof/Machine/Sequencer.lean ====
section
/-! DEFINITION. The Bring-Up Sequencer (42_bringup_sequencer.md): START's acceptance, the transitions T1 to T6, one bus
transaction a step, and READY. -/

namespace Sys2Proof.Machine

/-- START (R160, R169): accepted whenever `BUSY = 0`; `FAILED <- 0`, `ST <- Reset`, and the decode of `ST` takes over.
A word offered while `BUSY = 1` is held (R190). -/
def execStart (left right : F32) (mute : Bool) (s : State) : Host.Outcome State Fault Refusal :=
  if s.busy then .next s
  else .next (goto .reset { s.latch 0 left right mute with failed := false, env := s.env.noteStart })

/-- A blind one-byte write of the clock-source-select register that ends a transition (R95, R161, R164). -/
def clkselStep (v : Byte) (target : SeqState) (s : State) : State :=
  match send false s.cfg.clkselAddr [v] s with
  | (s1, .wait) => s1
  | (s1, .fail) => raise true .busError s1.idx s1
  | (s1, .ok) => goto target s1

/-- T1 (R161). -/
def execT1 (s : State) : Host.Outcome State Fault Refusal :=
  .next (clkselStep s.cfg.clkselDefault .clockSourceDefault (enter s))

/-- T2 (R162): the command `IDX` names; the transition is complete when the list is. -/
def execT2 (s : State) : Host.Outcome State Fault Refusal :=
  match s.cfg.pllCommands with
  | .boardError => .next (raise true .boardError 0 (enter s))
  | .ok cmds =>
    match cmds[(enter s).idx.toNat]? with
    | none => .next (goto .pllConfiguring (enter s))
    | some k =>
      if k.payload.isEmpty then .refused .emptyPayload
      else
        match send true k.addr k.payload (enter s) with
        | (s1, .wait) => .next s1
        | (s1, .fail) => .next (raise true .busError s1.idx s1)
        | (s1, .ok) => .next (if cmds.length ≤ (enter s).idx.toNat + 1 then goto .pllConfiguring s1 else s1)

/-- T3 (R163): one lock-status read. Failure, then the lock test, then the count (R222); unless the operation ends with
it, what the read leads to is written together with the next transaction (`hold`, R14). -/
def execT3 (s : State) : Host.Outcome State Fault Refusal :=
  match readReg s.cfg.lockAddr (enterPoll s) with
  | (s1, .wait) => .next s1
  | (s1, .fail) => .next (raise true .busError s1.pollCnt s1)
  | (s1, .ok b) =>
    if s1.cfg.lockTest b then .next (goto .pllLocked s1)
    else
      let s2 := { s1 with pollCnt := s1.pollCnt + 1 }
      .next (if s2.pollCnt.toNat = s2.cfg.pollMax then
        raise true .pllLockTimeout (BitVec.ofNat 16 s2.cfg.pollMax) s2 else s2)

/-- T4 (R164). -/
def execT4 (s : State) : Host.Outcome State Fault Refusal :=
  .next (clkselStep s.cfg.clkselPll .clockSourcePll (enter s))

/-- T5 (R165): the row `IDX` names. -/
def execT5 (s : State) : Host.Outcome State Fault Refusal :=
  match s.cfg.boardTable with
  | .boardError => .next (raise true .boardError 0 (enter s))
  | .ok rows =>
    match sendRow (enter s).idx.toNat rows (enter s) with
    | (s1, .wait) => .next s1
    | (s1, .more) => .next s1
    | (s1, .done) => .next (goto .boardConfiguring s1)
    | (s1, .fail) => .next (raise true .busError s1.idx s1)

/-- T6 (R166): the current transaction of the four default gains, 0 dB and unmuted. -/
def execT6 (s : State) : Host.Outcome State Fault Refusal :=
  match gainStep (enter s).idx.toNat (defaultMoves s.cfg) (.fin 0) (.fin 0) false (enter s) with
  | (s1, .wait) => .next s1
  | (s1, .more) => .next s1
  | (s1, .done) => .next (goto .ready s1)
  | (s1, .fail) => .next (raise true .busError s1.idx s1)

/-- READY (R167): `ST = Ready`, START ends with `OK`. -/
def execReady (s : State) : Host.Outcome State Fault Refusal := .next (ret s)

end Sys2Proof.Machine
end

