-- ==== Sys2Proof/Machine/Dispatch.lean ====
section
/-! DEFINITION. One arm per instruction. -/

namespace Sys2Proof.Machine

def exec (i : Instr) (s : State) : Host.Outcome State Fault Refusal :=
  match i with
  | .start l r m => Sys2Proof.Machine.execStart l r m s
  | .setLineInGain l r m => Sys2Proof.Machine.execSetLineInGain l r m s
  | .setAuxInGain l r m => Sys2Proof.Machine.execSetAuxInGain l r m s
  | .setMicInGain l r m => Sys2Proof.Machine.execSetMicInGain l r m s
  | .setLineOutGain l r m => Sys2Proof.Machine.execSetLineOutGain l r m s
  | .setHpOutGain l r m => Sys2Proof.Machine.execSetHpOutGain l r m s
  | .reservedOp6 l r m => Sys2Proof.Machine.execReservedOp6 l r m s
  | .reservedOp7 l r m => Sys2Proof.Machine.execReservedOp7 l r m s
  | .t1 => Sys2Proof.Machine.execT1 s
  | .t2 => Sys2Proof.Machine.execT2 s
  | .t3 => Sys2Proof.Machine.execT3 s
  | .t4 => Sys2Proof.Machine.execT4 s
  | .t5 => Sys2Proof.Machine.execT5 s
  | .t6 => Sys2Proof.Machine.execT6 s
  | .ready => Sys2Proof.Machine.execReady s
  | .encode a p => Sys2Proof.Machine.execEncode a p s
  | .send a p => Sys2Proof.Machine.execSend a p s
  | .sendTable rows => Sys2Proof.Machine.execSendTable rows s
  | .readReg a => Sys2Proof.Machine.execReadReg a s
  | .clamp c d => Sys2Proof.Machine.execClamp c d s
  | .rtn q => Sys2Proof.Machine.execRtn q s
  | .qcode c d => Sys2Proof.Machine.execQcode c d s
  | .quantize c l r => Sys2Proof.Machine.execQuantize c l r s
  | .pack c sd t k m => Sys2Proof.Machine.execPack c sd t k m s
  | .rmw a f => Sys2Proof.Machine.execRmw a f s
  | .setGain c l r m => Sys2Proof.Machine.execSetGain c l r m s
  | .raise e n => Sys2Proof.Machine.execRaise e n s

end Sys2Proof.Machine
end

