-- ==== Sys2Proof/Machine/Fetch.lean ====
section
/-! DEFINITION. What the block takes up next (R35, R96, R190): while `BUSY`, the transition `ST` decodes to or the
gain command the latches hold; otherwise the command word the host offers. And the intake of one step's stimulus. -/

namespace Sys2Proof.Machine

/-- A decoded word as something to run. -/
def fetchWord (w : BitVec 72) : Fetched :=
  match decode (.cmd w) with
  | .ok i => .run i
  | .error _ => .illegal w

/-- What the block takes up next. -/
def fetch (s : State) : Fetched :=
  if s.busy then
    if s.op = 0#3 then
      match decode (.st s.st.code) with
      | .ok i => .run i
      | .error _ => .idle
    else fetchWord s.latchedWord
  else
    match s.cmdIn with
    | [] => .idle
    | w :: _ => fetchWord w

/-- An accepted command word leaves the port (R190). -/
def takeWord (s : State) : State :=
  if s.busy then s else { s with cmdIn := s.cmdIn.tail }

/-- The intake of one step: the first stimulus leaves the list and its events happen (R60 item 4). -/
def intake (s : State) : State :=
  match s.env.stimuli with
  | [] => s
  | x :: l => { s with env := ({ s.env with stimuli := l }).happen s.cfg x.events }

/-- `rst` is sampled high in this step (R240). -/
def rstHigh (s : State) : Bool :=
  match s.env.stimuli with
  | [] => false
  | x :: _ => x.rst

/-- The acceptance of a word that decodes to nothing (R89). -/
def acceptBadWord (w : BitVec 72) (s : State) : State :=
  acceptIllegal (cmdOp w) (cmdLeft w) (cmdRight w) (cmdMute w) s

end Sys2Proof.Machine
end

