-- ==== Sys2Proof/WellFormed.lean ====
section
/-! DEFINITION. Well-formedness of a configuration, condition by condition as R11 numbers them, and of an
instruction's operands. -/

namespace Sys2Proof

/-- (1) `0 <= DEV_ADDR <= 127`. -/
def Config.devAddrOk (cfg : Config) : Bool := cfg.devAddr.toNat ≤ 127

/-- (2) `POLL_MAX >= 1`. -/
def Config.pollMaxOk (cfg : Config) : Bool := 1 ≤ cfg.pollMax

/-- (3) `LOCK_MASK != 0`. -/
def Config.lockMaskOk (cfg : Config) : Bool := cfg.lockMask != 0#8

/-- (4) `CLKSEL_DEFAULT != CLKSEL_PLL`. -/
def Config.clkselOk (cfg : Config) : Bool := cfg.clkselDefault != cfg.clkselPll

/-- (5) `MIN_DB(c) <= MAX_DB(c)` and `STEP(c) > 0` for every channel in use. -/
def Config.rangesOk (cfg : Config) : Bool :=
  cfg.channels.all fun c => decide ((cfg.chan c).minDb ≤ (cfg.chan c).maxDb) && decide (0 < (cfg.chan c).step)

/-- (6) `CODE_LSB(c,s) + CODE_WIDTH(c) <= 8`, with the legal values of R10: `CODE_WIDTH` from 1, so that `CODE_LSB`
is at most 7. -/
def Config.fieldsFit (cfg : Config) : Bool :=
  cfg.channels.all fun c => decide (1 ≤ (cfg.chan c).codeWidth) &&
    [Side.left, Side.right].all fun s => decide (cfg.codeLsb c s + (cfg.chan c).codeWidth ≤ 8)

/-- (7) `FIELD_MASK(c,s) AND EN_MASK(c,s) = 0` and `EN_MASK(c,s) != 0`. -/
def Config.enablesOk (cfg : Config) : Bool :=
  cfg.channels.all fun c => [Side.left, Side.right].all fun s =>
    cfg.fieldMask c s &&& cfg.enMask c s == 0#8 && cfg.enMask c s != 0#8

/-- (8) `0 <= MIN_CODE(c) <= MAX_CODE(c) < 2^CODE_WIDTH(c)`. -/
def Config.codesOk (cfg : Config) : Bool :=
  cfg.channels.all fun c => decide (0 ≤ (cfg.chan c).minCode) &&
    decide ((cfg.chan c).minCode ≤ (cfg.chan c).maxCode) &&
    decide ((cfg.chan c).maxCode < 2 ^ (cfg.chan c).codeWidth)

/-- The pairs of channel and side in use. -/
def Config.places (cfg : Config) : List (Channel × Side) :=
  cfg.channels.flatMap fun c => [(c, .left), (c, .right)]

/-- (9) Two different pairs in use that share a register own disjoint bits of it. -/
def Config.ownersDisjoint (cfg : Config) : Bool :=
  cfg.places.all fun x => cfg.places.all fun y =>
    x == y || cfg.regAddr x.1 x.2 != cfg.regAddr y.1 y.2 || cfg.ownMask x.1 x.2 &&& cfg.ownMask y.1 y.2 == 0#8

/-- (10) Every command of `PLL_CFG(RATE)` has a payload of at least one byte. -/
def Config.payloadsOk (cfg : Config) : Bool :=
  cfg.pllCommands.entries.all fun k => !k.payload.isEmpty

/-- (11) `POLL_MAX` and the two list lengths are less than `2^16`. -/
def Config.countsOk (cfg : Config) : Bool :=
  decide (cfg.pollMax < 2 ^ 16) && decide (cfg.pllCommands.entries.length < 2 ^ 16) &&
    decide (cfg.boardTable.entries.length < 2 ^ 16)

/-- Well-formedness of a configuration: every condition of R11. -/
def Config.wellFormed (cfg : Config) : Bool :=
  cfg.devAddrOk && cfg.pollMaxOk && cfg.lockMaskOk && cfg.clkselOk && cfg.rangesOk && cfg.fieldsFit &&
    cfg.enablesOk && cfg.codesOk && cfg.ownersDisjoint && cfg.payloadsOk && cfg.countsOk

/-- The code operand of PACK fits the channel's code field, `0 <= k < 2^CODE_WIDTH(c)` (R143). -/
def Config.codeFits (cfg : Config) (c : Channel) (k : Byte) : Bool :=
  decide (k.toNat < 2 ^ (cfg.chan c).codeWidth)

/-- The byte function of an RMW is about channels in use and codes that fit (R143, R145). -/
def ByteFn.wellFormed (cfg : Config) : ByteFn → Bool
  | .pack c _ k _ => cfg.inUse c && cfg.codeFits c k
  | .packBoth c kl kr _ => cfg.inUse c && cfg.codeFits c kl && cfg.codeFits c kr
  | .table _ => true

/-- Well-formedness of an instruction: a payload is not empty (R110, U9), a channel is in use (R145), a code fits
its field (R143). Every operand of a host command is legal (R199). -/
def Instr.wellFormed (cfg : Config) : Instr → Bool
  | .start _ _ _ => true
  | .setLineInGain _ _ _ => true
  | .setAuxInGain _ _ _ => true
  | .setMicInGain _ _ _ => true
  | .setLineOutGain _ _ _ => true
  | .setHpOutGain _ _ _ => true
  | .reservedOp6 _ _ _ => true
  | .reservedOp7 _ _ _ => true
  | .t1 => true
  | .t2 => true
  | .t3 => true
  | .t4 => true
  | .t5 => true
  | .t6 => true
  | .ready => true
  | .encode _ p => !p.isEmpty
  | .send _ p => !p.isEmpty
  | .sendTable _ => true
  | .readReg _ => true
  | .clamp c _ => cfg.inUse c
  | .rtn _ => true
  | .qcode c _ => cfg.inUse c
  | .quantize c _ _ => cfg.inUse c
  | .pack c _ _ k _ => cfg.inUse c && cfg.codeFits c k
  | .rmw _ f => f.wellFormed cfg
  | .setGain c _ _ _ => cfg.inUse c
  | .raise _ _ => true

end Sys2Proof
end

