-- ==== Sys2Proof/Machine/Step.lean ====
section
/-! DEFINITION. One step: one command accepted, one bus transaction with the register writes the last one left due, or
the end of an operation that no transaction follows (R14, R99; log 3). -/

namespace Sys2Proof.Machine

/-- One step. A configuration that is not well formed is refused (R11). The step's events happen first; `rst` high
resets the block (R240); otherwise the writes still due are done, what `fetch` names runs, and `land` says which of its
register writes wait for the next transaction (R14). -/
def step (s : State) : Host.Outcome State Fault Refusal :=
  if !s.cfg.wellFormed then .refused .configIllFormed
  else if rstHigh s then .next (applyRst (intake s))
  else
    let u := settle (intake s)
    match fetch u with
    | .idle => .next u
    | .run i => landOutcome (intake s) u (exec i (takeWord u))
    | .illegal w => .next (acceptBadWord w (takeWord u))

/-- The state with an opcode-table word where the next step fetches (log 17). A 72-bit word stands first on the
command port of a block that is not busy; a word of at most 8 bits is the value of `ST` in a START in progress. No
stimulus is pending, so that nothing comes before it. -/
def State.withFetchWord (s : State) (nbits w : Nat) : State :=
  if nbits = 72 then
    { s with busy := false, due := none, cmdIn := BitVec.ofNat 72 w :: s.cmdIn, env := { s.env with stimuli := [] } }
  else
    match SeqState.ofCode (BitVec.ofNat 3 w) with
    | none => s
    | some t =>
      let e : Env := { s.env with stimuli := [] }
      { s with busy := true, op := 0, st := t, entered := false, due := none, env := e }

end Sys2Proof.Machine
end

