-- ==== Sys2Proof/Machine/Ports.lean ====
section
/-! DEFINITION. The output ports of R99 as views of the state, at the level of whole transactions: the command port's
ready, the bus request and its frame bytes, and the board-profile query with its answer. Cycle-level strobes are left
out (log 24). -/

namespace Sys2Proof.Machine

/-- `cmd_ready = NOT BUSY` (R99). -/
def State.cmdReady (s : State) : Bool := !s.busy

/-- `bus_req_valid`: a transaction is issued or waits for its answer. -/
def State.busReqValid (s : State) : Bool := (nextRequest s).isSome

/-- `bus_req_read`: 1 for `BusRead`, 0 for `BusWrite`. No rule says what it and `bus_req_addr` carry while
`bus_req_valid` is 0 (R99). DESIGN CHOICE (log 36): the views then have no value. -/
def State.busReqRead (s : State) : Option Bool :=
  match nextRequest s with
  | some (.read _) => some true
  | some (.write _ _) => some false
  | none => none

/-- `bus_req_dev = {0, DEV_ADDR}` (R26, R99): bit 7 is 0 in a well-formed configuration. -/
def State.busReqDev (s : State) : BitVec 8 := s.cfg.devAddr

/-- `bus_req_addr`: the register address, for a write the first two frame bytes; none without a request (log 36). -/
def State.busReqAddr (s : State) : Option Addr :=
  match nextRequest s with
  | some (.read a) => some a
  | some (.write _ bytes) => some (frameAddr bytes)
  | none => none

/-- The bytes handed over on `bus_wr_byte`, in order, `bus_wr_last` with the final one. -/
def State.busWrBytes (s : State) : List Byte :=
  match nextRequest s with
  | some (.write _ bytes) => bytes
  | _ => []

/-- The answer of the profile port: `BoardError`, index past the end, or the address and payload of an entry. -/
def profileAnswer (cfg : Config) (sel : Bool) (idx : Nat) : HookResult (Option RegisterCommand) :=
  if sel then
    match cfg.boardTable with
    | .boardError => .boardError
    | .ok rows => .ok (rows[idx]?.map fun r => ⟨r.addr, [r.value]⟩)
  else
    match cfg.pllCommands with
    | .boardError => .boardError
    | .ok cmds => .ok cmds[idx]?

/-- The profile query the block makes: `prof_sel` (0 for `PLL_CFG`, 1 for `BOARD_TABLE`), `prof_rate`, `prof_idx`. No
rule says what `prof_rate` carries while `prof_sel = 1`: `BOARD_TABLE` takes no argument (R27, R31, R99). DESIGN CHOICE
(log 32): the query then has no rate. R99 gives these ports no valid strobe, and no value while the block makes no query,
outside T2 and T5. DESIGN CHOICE (log 38): the view then has no value for any of the three. Nor does a rule say when
the query is made that is answered `prof_end`. DESIGN CHOICE (log 40): the view has the query of the entry to be sent
next, and never asks past the last one; the query of an empty list does not show in a run, as `settle` goes past its
transition. -/
def State.profileQuery (s : State) : Option (Bool × Option (BitVec 2) × BitVec 16) :=
  let u := settle s
  if u.inStart then
    match u.st with
    | .clockSourceDefault => some (false, some u.cfg.rate.toCode, (enter u).idx)
    | .clockSourcePll => some (true, none, (enter u).idx)
    | _ => none
  else none

end Sys2Proof.Machine
end

