-- ==== Sys2Proof/Safety.lean ====
section
/-! DEFINITION. The terms claims are stated in: the premises the spec names (`EXCL`, `PROFILE_CLEAN`, an environment
that answers), the safety mark of U1, and the invariants of the block. -/

namespace Sys2Proof.Machine

/-- A transaction of another bus client (R60 item 4). What the codec does itself is none (R39). -/
def EnvEvent.ofClient : EnvEvent → Bool
  | .clientWrite _ _ => true
  | .codecChange _ _ => false
  | .codecReset => false

/-- `EXCL` (R63) at one step: while an operation is in progress or a word is offered, so from the acceptance of a
command to its response, no other bus client issues a transaction. `EXCL` of a run is this at each of its states. -/
def State.excl (s : State) : Bool :=
  if s.busy || !s.cmdIn.isEmpty then
    match s.env.stimuli with
    | [] => true
    | x :: _ => x.events.all fun ev => !ev.ofClient
  else true

/-- DESIGN CHOICE (log 35): a premise stronger than `EXCL`, which it implies: no other bus client issues a transaction
in any step to come, in an idle block too. -/
def Env.exclusive (e : Env) : Bool := e.stimuli.all fun x => x.events.all fun ev => !ev.ofClient

/-- The codec is not reset in any step to come: a claim about the codec after START takes its reset to lie before the
acceptance (R244). -/
def Env.noCodecReset (e : Env) : Bool := e.stimuli.all fun x => !x.events.contains .codecReset

/-- `PROFILE_CLEAN` (R251): no command of `PLL_CFG(RATE)` has address `CLKSEL_ADDR`. -/
def profileClean (cfg : Config) : Bool := cfg.pllCommands.entries.all fun k => k.addr != cfg.clkselAddr

/-- The transport answers every transaction (R69): it is the mock bus, or a script at least this long. -/
def Env.answersFor (e : Env) (n : Nat) : Prop :=
  match e.transport with
  | .script l => n ≤ l.length
  | .mock _ _ => True

/-- A safe state: the clock-source hazard has not been marked (U1, R249). -/
def State.Safe (s : State) : Prop := s.env.clkHazard = false

/-- A lock-status read that showed lock (R171). -/
def lockedRead (cfg : Config) (e : TraceEntry) : Bool :=
  match e with
  | .read dev a (some b) => dev == cfg.devAddr && a == cfg.lockAddr && cfg.lockTest b
  | _ => false

/-- A write entry has the frame of a write with at least one payload byte, and every entry the device address (R116). -/
def wellFramed (cfg : Config) (e : TraceEntry) : Bool :=
  match e with
  | .write dev bytes _ => dev == cfg.devAddr && decide (3 ≤ bytes.length)
  | .read dev _ _ => dev == cfg.devAddr

/-- The trace entry of a transaction and its result (R72). -/
def entryOf (cfg : Config) (r : BusReq) (e : TraceEntry) : Prop :=
  match r with
  | .write _ bytes => ∃ ok, e = .write cfg.devAddr bytes ok
  | .read a => ∃ got, e = .read cfg.devAddr a got

/-- The same transaction, failed. -/
def TraceEntry.asFailed : TraceEntry → TraceEntry
  | .write dev bytes _ => .write dev bytes false
  | .read dev a _ => .read dev a none

/-- The entry is one of a transaction that returned `Fail` (R72). -/
def TraceEntry.isFail : TraceEntry → Bool
  | .write _ _ ok => !ok
  | .read _ _ got => got.isNone

/-- The order of the extended rationals; NaN is comparable to nothing (R131). -/
def extLe : ExtRat → ExtRat → Prop
  | .nan, _ => False
  | _, .nan => False
  | .negInf, _ => True
  | _, .posInf => True
  | .fin q, .fin q' => q ≤ q'
  | _, _ => False

/-- Strictly less (R131). -/
def extLt (d d' : ExtRat) : Prop := extLe d d' ∧ ¬ extLe d' d

/-- `s` with its operation ended: status `k`, index `i`, `FAILED = f`, `BUSY = 0`, and one more response word, laid
out as R92 says. -/
def State.ended (s : State) (k : Status) (i : BitVec 16) (f : Bool) : State :=
  { s with errKind := k, errIndex := i, busy := false, failed := f,
           responses := s.responses ++ [i ++ 0#4 ++ BitVec.ofBool f ++ s.st.code ++ 0#5 ++ k.code] }

/-- `IDX` of the current transition: 0 before its entry actions (R35; log 4). -/
def State.pos (s : State) : BitVec 16 := if s.entered then s.idx else 0

/-- Every codec register but the `n` from `a` on reads as before. -/
def SameOutside (a : Addr) (n : Nat) (s t : State) : Prop :=
  ∀ x : Nat, (∀ i < n, x ≠ (a + BitVec.ofNat 16 i).toNat) → t.env.peek x = s.env.peek x

/-- Every codec register reads as before. -/
def SameCodec (s t : State) : Prop := ∀ x : Nat, t.env.peek x = s.env.peek x

/-- `n` executions of one instruction, one after the other. -/
def again (i : Instr) : Nat → State → Host.Outcome State Fault Refusal
  | 0, s => .next s
  | n + 1, s =>
    match exec i s with
    | .next t => again i n t
    | .fault r => .fault r
    | .refused r => .refused r

/-! ### The bus trace the spec prescribes (R115, R145, R172), given the bytes the reads return -/

/-- The trace of a table sent whole (R115). -/
def tableEntries (cfg : Config) (rows : List Row) : List TraceEntry :=
  rows.map fun r => .write cfg.devAddr (encodeFrame r.addr [r.value]) true

/-- The trace of a list of read-modify-writes with operands `l`, `r`, `m` (R145): the `k`-th read returns
`reads[k]`. -/
def moveEntries (cfg : Config) (l r : ExtRat) (m : Bool) (moves : List GainMove) (reads : List Byte) :
    List TraceEntry :=
  (moves.zip reads).flatMap fun x =>
    [.read cfg.devAddr (x.1.addr cfg) (some x.2),
     .write cfg.devAddr (encodeFrame (x.1.addr cfg)
      [(x.1.fn (cfg.codeByte x.1.ch l) (cfg.codeByte x.1.ch r) m).apply cfg x.2]) true]

/-- Answers `Ok` to a list of read-modify-writes, the `k`-th read with `reads[k]`. -/
def moveAnswers (reads : List Byte) : List BusAnswer := reads.flatMap fun b => [.ok b, .ok 0]

/-- A write of the clock-source-select register, `Ok` (R95). -/
def clkselEntry (cfg : Config) (v : Byte) : TraceEntry :=
  .write cfg.devAddr [cfg.clkselAddr.extractLsb' 8 8, cfg.clkselAddr.extractLsb' 0 8, v] true

/-- The lock-status reads of T3 (R163). -/
def pollEntries (cfg : Config) (polls : List Byte) : List TraceEntry :=
  polls.map fun b => .read cfg.devAddr cfg.lockAddr (some b)

/-- The PLL writes of T2 (R162). -/
def pllEntries (cfg : Config) : List TraceEntry :=
  cfg.pllCommands.entries.map fun k => .write cfg.devAddr (encodeFrame k.addr k.payload) true

/-- The trace of a START (R172) up to position `n` of the transition that `st` names: `polls` are the not-locked bytes
T3 has read, `b` the locked one, `reads` the bytes T6 reads. -/
def bringUpTrace (cfg : Config) (polls : List Byte) (b : Byte) (reads : List Byte) (n : Nat) :
    SeqState → List TraceEntry
  | .reset => []
  | .clockSourceDefault => clkselEntry cfg cfg.clkselDefault :: (pllEntries cfg).take n
  | .pllConfiguring => clkselEntry cfg cfg.clkselDefault :: pllEntries cfg ++ pollEntries cfg polls
  | .pllLocked => clkselEntry cfg cfg.clkselDefault :: pllEntries cfg ++ pollEntries cfg (polls ++ [b])
  | .clockSourcePll => clkselEntry cfg cfg.clkselDefault :: pllEntries cfg ++ pollEntries cfg (polls ++ [b]) ++
      [clkselEntry cfg cfg.clkselPll] ++ (tableEntries cfg cfg.boardTable.entries).take n
  | .boardConfiguring => clkselEntry cfg cfg.clkselDefault :: pllEntries cfg ++ pollEntries cfg (polls ++ [b]) ++
      [clkselEntry cfg cfg.clkselPll] ++ tableEntries cfg cfg.boardTable.entries ++
      (moveEntries cfg (.fin 0) (.fin 0) false (defaultMoves cfg) reads).take n
  | .ready => clkselEntry cfg cfg.clkselDefault :: pllEntries cfg ++ pollEntries cfg (polls ++ [b]) ++
      [clkselEntry cfg cfg.clkselPll] ++ tableEntries cfg cfg.boardTable.entries ++
      moveEntries cfg (.fin 0) (.fin 0) false (defaultMoves cfg) reads

/-- The bytes a START has read are such as R172 item 3 and item 6 say: less than `POLL_MAX` not-locked ones, then a
locked one, then one for every read-modify-write of T6. -/
def ReadsOk (cfg : Config) (polls : List Byte) (b : Byte) (reads : List Byte) : Prop :=
  (∀ p ∈ polls, cfg.lockTest p = false) ∧ cfg.lockTest b = true ∧ polls.length < cfg.pollMax ∧
    reads.length = (defaultMoves cfg).length

/-- The trace of the START in progress, since its acceptance at trace `base`, is the one R172 prescribes for `ST` and
`IDX`; and between the read and the write of a read-modify-write the working registers hold what the write needs. It is
stated of a state in which nothing is due. -/
def State.OnPlan (base : List TraceEntry) (s : State) : Prop :=
  ∃ polls b reads, ReadsOk s.cfg polls b reads ∧
    s.trace = base ++ bringUpTrace s.cfg polls b reads s.pos.toNat s.st ∧
    (s.st = .pllConfiguring → polls.length = s.pos.toNat) ∧
    (s.st = .boardConfiguring → ∀ mv, (defaultMoves s.cfg)[s.pos.toNat / 2]? = some mv →
      (s.pos.toNat % 2 = 1 → reads[s.pos.toNat / 2]? = some s.tmp) ∧
      (s.pos.toNat % 2 = 1 ∨ mv.carry = .right →
        s.lcode = s.cfg.codeByte mv.ch (.fin 0) ∧ s.rcode = s.cfg.codeByte mv.ch (.fin 0)))

/-- A bound on the steps an operation in progress still takes when every transaction is answered (R258). It is stated of
a state in which nothing is due. -/
def State.stepsLeft (s : State) : Nat :=
  let n := s.pos.toNat
  let t6 := 2 * (defaultMoves s.cfg).length + 1
  let t5 := max 1 s.cfg.boardTable.entries.length
  let t2 := max 1 s.cfg.pllCommands.entries.length
  if !s.busy then 0
  else if s.op = 0#3 then
    match s.st with
    | .reset => 1 + t2 + s.cfg.pollMax + 1 + t5 + t6
    | .clockSourceDefault => (t2 - n) + s.cfg.pollMax + 1 + t5 + t6
    | .pllConfiguring => (s.cfg.pollMax - n) + 1 + t5 + t6
    | .pllLocked => 1 + t5 + t6
    | .clockSourcePll => (t5 - n) + t6
    | .boardConfiguring => t6 - n
    | .ready => 1
  else 2 * (gainMoves s.cfg (channelOf s.op)).length - s.idx.toNat

/-- The number of transactions of the transition or gain command in progress: `IDX` stays below it (R35). -/
def State.planLength (s : State) : Nat :=
  if s.op = 0#3 then
    match s.st with
    | .clockSourceDefault => s.cfg.pllCommands.entries.length
    | .pllConfiguring => s.cfg.pollMax
    | .clockSourcePll => s.cfg.boardTable.entries.length
    | .boardConfiguring => 2 * (defaultMoves s.cfg).length
    | _ => 1
  else 2 * (gainMoves s.cfg (channelOf s.op)).length

/-- The invariant of the block's registers and of the codec's. -/
structure State.BlockInv (s : State) : Prop where
  /-- The codec registers keep their canonical form. -/
  regs : s.env.wf = true
  /-- `FAILED = 1` implies `ST != Ready` (R24). -/
  failedNotReady : s.failed = true → s.st ≠ .ready
  /-- `ERR_INDEX` is 0 when `ERR_KIND = OK` (R25). -/
  okIndex : s.errKind = .ok → s.errIndex = 0
  /-- Only a legal command is ever in progress (R89, R90, R191). -/
  legalOp : s.busy = true → s.op.toNat ≤ 5 ∧ s.cfg.inUse (channelOf s.op) = true
  /-- A gain command is in progress only in `Ready` (R191). -/
  gainReady : s.busy = true → s.op ≠ 0 → s.st = .ready
  /-- A START in progress has not failed (R24, R160). -/
  startClean : s.busy = true → s.op = 0 → s.failed = false
  /-- `IDX` stays below the length of the current plan (R35). -/
  idxBound : s.busy = true → (s.op = 0 → s.entered = true) → s.idx.toNat < s.planLength
  /-- `POLL_CNT` counts the reads of the current T3, and is less than `POLL_MAX` (R34). -/
  pollBound : s.inStart = true → s.st = .pllConfiguring → s.entered = true →
    s.pollCnt = s.idx ∧ s.pollCnt.toNat < s.cfg.pollMax

/-- The invariant of the machine: the registers meet theirs as they stand and once what is due is done (R14), and
something is due only while an operation is in progress. -/
structure State.Inv (s : State) : Prop where
  now : s.BlockInv
  settled : (settle s).BlockInv
  dueBusy : s.due.isSome = true → s.busy = true

/-- Past the locked exit of T3 a locked read has been seen since the last PLL write, and the hazard is not marked
(R171, R249). -/
structure State.LockInv (s : State) : Prop where
  safe : s.Safe
  seen : (settle s).st ≠ .reset → (settle s).st ≠ .clockSourceDefault → (settle s).st ≠ .pllConfiguring →
    s.env.lockSeen = true

/-- In a START past the locked exit of T3 a locked read has been seen since the last PLL write (R171). -/
def State.StartLocked (s : State) : Prop :=
  s.inStart = true → (settle s).st ≠ .reset → (settle s).st ≠ .clockSourceDefault → (settle s).st ≠ .pllConfiguring →
    s.env.lockSeen = true

/-- While T4 is the next transition of a START, the last entry of the trace is a locked read (R171). -/
def State.SwitchAfterLock (s : State) : Prop :=
  s.inStart = true → (settle s).st = .pllLocked → ∃ e, s.trace.getLast? = some e ∧ lockedRead s.cfg e = true

end Sys2Proof.Machine
end

