-- ==== Sys2Proof/Certificates/Slice0/Obligations.lean ====
section
/-! DEFINITION. The statements for the provers. Rules `R<n>` are the spec's; a clause that rests on a choice of the
model names its log entry. -/

section Statements

open Sys2Proof Sys2Proof.Machine

/-! ### Encodings -/

/-- Words written out from the spec's formats decode to what they stand for (R85, R88, R89, R96). -/
def Obligations.DecodesWrittenWords : Prop :=
  decode (.cmd 0x000000000000000000#72) = .ok (.start 0#32 0#32 false) ∧
  decode (.cmd 0x0140A0000040A00000#72) = .ok (.setLineInGain 0x40A00000#32 0x40A00000#32 false) ∧
  decode (.cmd 0x0A40400000C0C00000#72) = .ok (.setAuxInGain 0x40400000#32 0xC0C00000#32 true) ∧
  decode (.cmd 0x0CC2C8000040C00000#72) = .ok (.setLineOutGain 0xC2C80000#32 0x40C00000#32 true) ∧
  decode (.cmd 0x0F0000000000000000#72) = .ok (.reservedOp7 0#32 0#32 true) ∧
  decode (.cmd 0x800000000000000000#72) = .error .reservedBits ∧
  decode (.st 2#3) = .ok .t3 ∧ decode (.st 6#3) = .ok .ready ∧ decode (.st 7#3) = .error .reservedState

/-- Decoding the encoding of an instruction gives it back, with every operand; the host commands and the sequencer
rows are the instructions that have an encoding (R85, R88, R96). -/
def Obligations.DecodeOfEncode : Prop :=
  (∀ (i : Instr) (c : CodeWord), encode i = some c → decode c = .ok i) ∧
  (∀ (l r : F32) (m : Bool), ∀ i ∈ [Instr.start l r m, .setLineInGain l r m, .setAuxInGain l r m,
      .setMicInGain l r m, .setLineOutGain l r m, .setHpOutGain l r m, .reservedOp6 l r m, .reservedOp7 l r m,
      .t1, .t2, .t3, .t4, .t5, .t6, .ready],
    ∃ c, encode i = some c ∧ decode c = .ok i)

/-- A word that decodes is the encoding of what it decodes to; a command word is refused exactly when a bit of `RSV` is
set (R89), a state word exactly when it is 7 (R22). -/
def Obligations.EncodeOfDecode : Prop :=
  (∀ (c : CodeWord) (i : Instr), decode c = .ok i → encode i = some c) ∧
  (∀ w : BitVec 72, (∃ e, decode (.cmd w) = .error e) ↔ w.extractLsb' 68 4 ≠ 0#4) ∧
  (∀ v : BitVec 3, (∃ e, decode (.st v) = .error e) ↔ v = 7#3)

/-- R88: a row is selected exactly when `(CMD AND mask) = match`, with the operands of R85. -/
def Obligations.SelectedByMatchAndMask : Prop :=
  ∀ w : BitVec 72,
    let l : F32 := w.extractLsb' 32 32
    let r : F32 := w.extractLsb' 0 32
    let m : Bool := w.getLsbD 67
    let sel := w &&& 0xF70000000000000000#72
    (sel = 0x000000000000000000#72 ↔ decode (.cmd w) = .ok (.start l r m)) ∧
    (sel = 0x010000000000000000#72 ↔ decode (.cmd w) = .ok (.setLineInGain l r m)) ∧
    (sel = 0x020000000000000000#72 ↔ decode (.cmd w) = .ok (.setAuxInGain l r m)) ∧
    (sel = 0x030000000000000000#72 ↔ decode (.cmd w) = .ok (.setMicInGain l r m)) ∧
    (sel = 0x040000000000000000#72 ↔ decode (.cmd w) = .ok (.setLineOutGain l r m)) ∧
    (sel = 0x050000000000000000#72 ↔ decode (.cmd w) = .ok (.setHpOutGain l r m)) ∧
    (sel = 0x060000000000000000#72 ↔ decode (.cmd w) = .ok (.reservedOp6 l r m)) ∧
    (sel = 0x070000000000000000#72 ↔ decode (.cmd w) = .ok (.reservedOp7 l r m))

/-- R82: the stored row and its frame. -/
def Obligations.RowStoredAndFramed : Prop :=
  (∀ r : Row, (encodeRow r).extractLsb' 8 16 = r.addr ∧ (encodeRow r).extractLsb' 0 8 = r.value ∧
    decodeRow (encodeRow r) = r) ∧
  (∀ w : BitVec 24, encodeRow (decodeRow w) = w ∧
    encodeFrame (decodeRow w).addr [(decodeRow w).value] =
      [w.extractLsb' 16 8, w.extractLsb' 8 8, w.extractLsb' 0 8])

/-- R110: ENCODE answers the frame and writes nothing else (`res` is where the model leaves a returned value,
log 14). -/
def Obligations.EncodeMakesFrame : Prop :=
  ∀ (s : State) (a : Addr) (p : List Byte), p ≠ [] →
    exec (.encode a p) s = .next { s with res := .frame ([a.extractLsb' 8 8, a.extractLsb' 0 8] ++ p) }

/-- R92: the end of an operation writes `BUSY`, `ERR_KIND` and `ERR_INDEX` and produces one response word with the
fields of the table; `FAILED` and `ST` in it are those after the operation. The codes in it are those of R22 and R211,
of which 7, and 6 and 7, stand for nothing. -/
def Obligations.ResponseWordFields : Prop :=
  (∀ (s : State) (k : Status) (i : BitVec 16), ∃ w : BitVec 32,
    s.finish k i = { s with errKind := k, errIndex := i, busy := false, responses := s.responses ++ [w] } ∧
    w.extractLsb' 16 16 = i ∧ w.extractLsb' 12 4 = 0#4 ∧ w.getLsbD 11 = s.failed ∧
    w.extractLsb' 8 3 = s.st.code ∧ w.extractLsb' 3 5 = 0#5 ∧ w.extractLsb' 0 3 = k.code) ∧
  (∀ t : SeqState, t.code = match t with
    | .reset => 0#3 | .clockSourceDefault => 1#3 | .pllConfiguring => 2#3 | .pllLocked => 3#3
    | .clockSourcePll => 4#3 | .boardConfiguring => 5#3 | .ready => 6#3) ∧
  (∀ k : Status, k.code = match k with
    | .ok => 0#3 | .err .busError => 1#3 | .err .boardError => 2#3 | .err .pllLockTimeout => 3#3
    | .err .notReady => 4#3 | .err .illegalCommand => 5#3)

/-! ### The Gain Quantizer -/

/-- R86: the value of the 32 operand bits. The spec marks the format as general knowledge, not in the source (log
27). -/
def Obligations.BinaryOperandValue : Prop :=
  ∀ d : F32,
    let sgn : ℚ := if d.getLsbD 31 then -1 else 1
    let e : ℕ := (d.extractLsb' 23 8).toNat
    let f : ℕ := (d.extractLsb' 0 23).toNat
    (1 ≤ e → e ≤ 254 → f32Value d = .fin (sgn * (2 : ℚ) ^ ((e : ℤ) - 127) * (1 + (f : ℚ) / 2 ^ 23))) ∧
    (e = 0 → f32Value d = .fin (sgn * (2 : ℚ) ^ (-126 : ℤ) * ((f : ℚ) / 2 ^ 23))) ∧
    (e = 255 → f = 0 → f32Value d = if d.getLsbD 31 then .negInf else .posInf) ∧
    (e = 255 → f ≠ 0 → f32Value d = .nan)

/-- R132: CLAMP answers a rational in the channel's range, as the rule says, and writes nothing else. -/
def Obligations.ClampSaturates : Prop :=
  ∀ (s : State) (c : Channel), s.cfg.wellFormed = true → s.cfg.inUse c = true →
    let lo := (s.cfg.chan c).minDb
    let hi := (s.cfg.chan c).maxDb
    (exec (.clamp c .nan) s = .next { s with res := .db lo }) ∧
    (exec (.clamp c .negInf) s = .next { s with res := .db lo }) ∧
    (exec (.clamp c .posInf) s = .next { s with res := .db hi }) ∧
    (∀ q : ℚ, q < lo → exec (.clamp c (.fin q)) s = .next { s with res := .db lo }) ∧
    (∀ q : ℚ, hi < q → exec (.clamp c (.fin q)) s = .next { s with res := .db hi }) ∧
    (∀ q : ℚ, lo ≤ q → q ≤ hi → exec (.clamp c (.fin q)) s = .next { s with res := .db q }) ∧
    (∀ d : ExtRat, lo ≤ (s.cfg.chan c).clampDb d ∧ (s.cfg.chan c).clampDb d ≤ hi)

/-- R133: RTN answers the nearest integer, a tie the one of smaller magnitude; `RTN(q) = sign(q) * ceil(|q| - 1/2)`; it
is odd and monotone. -/
def Obligations.RoundsTiesTowardZero : Prop :=
  (∀ (s : State) (q : ℚ), exec (.rtn q) s = .next { s with res := .int (roundTiesToZero q) }) ∧
  (∀ q : ℚ, roundTiesToZero q = if q < 0 then -⌈|q| - 1 / 2⌉ else ⌈|q| - 1 / 2⌉) ∧
  (∀ q : ℚ, let n := ⌊|q|⌋
    ((1 / 2 : ℚ) < |q| - n → |roundTiesToZero q| = n + 1) ∧ (|q| - n ≤ (1 / 2 : ℚ) → |roundTiesToZero q| = n)) ∧
  (∀ q : ℚ, roundTiesToZero (-q) = -roundTiesToZero q) ∧
  (∀ q q' : ℚ, q ≤ q' → roundTiesToZero q ≤ roundTiesToZero q')

/-- R134: QCODE answers `ZERO_CODE + RTN(CLAMP / STEP)`; the extreme codes are those of the range ends; 0 dB in range
has `ZERO_CODE`; one step more of dB is one more in the code. -/
def Obligations.CodeOfDecibels : Prop :=
  (∀ (s : State) (c : Channel) (d : ExtRat), s.cfg.inUse c = true →
    exec (.qcode c d) s = .next { s with res := .int ((s.cfg.chan c).zeroCode +
      roundTiesToZero ((s.cfg.chan c).clampDb d / (s.cfg.chan c).step)) }) ∧
  (∀ p : ChannelParams, p.minCode = p.code (.fin p.minDb) ∧ p.maxCode = p.code (.fin p.maxDb) ∧
    ∀ k : ℤ, p.dbOf k = ((k : ℚ) - p.zeroCode) * p.step) ∧
  (∀ p : ChannelParams, p.minDb ≤ 0 → 0 ≤ p.maxDb → p.code (.fin 0) = p.zeroCode) ∧
  (∀ (p : ChannelParams) (k : ℤ), 0 < p.step → p.minDb ≤ p.dbOf k → p.dbOf k ≤ p.maxDb → p.code (.fin (p.dbOf k)) = k) ∧
  (∀ (p : ChannelParams) (k : ℤ), p.dbOf (k + 1) = p.dbOf k + p.step)

/-- R136, which the spec derives from R132 to R134: saturation and range. -/
def Obligations.SaturationAndRange : Prop :=
  ∀ (cfg : Config) (c : Channel), cfg.wellFormed = true → cfg.inUse c = true →
    let p := cfg.chan c
    (∀ d, extLt d (.fin p.minDb) → p.code d = p.minCode) ∧
    (∀ d, extLt (.fin p.maxDb) d → p.code d = p.maxCode) ∧
    (∀ d, p.minCode ≤ p.code d ∧ p.code d ≤ p.maxCode) ∧
    (∀ d d', extLe d d' → p.code d ≤ p.code d') ∧
    (∀ q : ℚ, p.minDb ≤ q → q ≤ p.maxDb → |p.dbOf (p.code (.fin q)) - q| ≤ p.step / 2) ∧
    (∀ d, 0 ≤ p.code d ∧ p.code d < 2 ^ p.codeWidth)

/-- R137, operand words: both zeros are one number; an infinity and a NaN go to an end of the range; a tie goes to the
code nearer `ZERO_CODE`; an end of the range is not altered. -/
def Obligations.SpecialOperandWords : Prop :=
  ∀ (cfg : Config) (c : Channel), cfg.wellFormed = true → cfg.inUse c = true →
    let p := cfg.chan c
    f32Value 0x80000000#32 = .fin 0 ∧ f32Value 0x00000000#32 = .fin 0 ∧
    p.code (f32Value 0x7F800000#32) = p.maxCode ∧ p.code (f32Value 0xFF800000#32) = p.minCode ∧
    (∀ d : F32, d.extractLsb' 23 8 = 255#8 → d.extractLsb' 0 23 ≠ 0#23 → p.code (f32Value d) = p.minCode) ∧
    (∀ k : ℕ, p.minDb ≤ p.dbOf (p.zeroCode + k) + p.step / 2 → p.dbOf (p.zeroCode + k) + p.step / 2 ≤ p.maxDb →
      p.code (.fin (p.dbOf (p.zeroCode + k) + p.step / 2)) = p.zeroCode + k) ∧
    (∀ k : ℕ, p.minDb ≤ p.dbOf (p.zeroCode - k) - p.step / 2 → p.dbOf (p.zeroCode - k) - p.step / 2 ≤ p.maxDb →
      p.code (.fin (p.dbOf (p.zeroCode - k) - p.step / 2)) = p.zeroCode - k) ∧
    p.clampDb (.fin p.minDb) = p.minDb ∧ p.clampDb (.fin p.maxDb) = p.maxDb

/-- R135: QUANTIZE writes the two codes, each from its own operand alone, and nothing else but the returned value
(log 14); in a well-formed configuration the 8-bit registers hold the codes exactly. -/
def Obligations.QuantizeWritesBothCodes : Prop :=
  ∀ (s : State) (c : Channel) (l r : ExtRat), s.cfg.inUse c = true →
    ∃ lc rc : Byte,
      exec (.quantize c l r) s = .next { s with lcode := lc, rcode := rc, res := .codes lc rc } ∧
      (s.cfg.wellFormed = true →
        (lc.toNat : ℤ) = (s.cfg.chan c).code l ∧ (rc.toNat : ℤ) = (s.cfg.chan c).code r)

/-- R143, R140: PACK answers `(t AND NOT OWN_MASK) OR (k << CODE_LSB) OR ENB` and writes nothing else. -/
def Obligations.PackMakesGainByte : Prop :=
  ∀ (s : State) (c : Channel) (sd : Side) (t k : Byte) (m : Bool),
    s.cfg.wellFormed = true → s.cfg.inUse c = true → k.toNat < 2 ^ (s.cfg.chan c).codeWidth →
    let w : Byte :=
      (t &&& ~~~ s.cfg.ownMask c sd) ||| (k <<< s.cfg.codeLsb c sd) ||| (if m then 0#8 else s.cfg.enMask c sd)
    exec (.pack c sd t k m) s = .next { s with res := .byte w }

/-- R147, which the spec derives from R143: the foreign bits are those of the byte read, for every operand and
configuration; so too for the byte an RMW of SET_GAIN writes, one side or both. -/
def Obligations.PackKeepsForeignBits : Prop :=
  ∀ (cfg : Config) (c : Channel) (sd : Side) (t k kr : Byte) (m : Bool),
    cfg.packByte c sd t k m &&& ~~~ cfg.ownMask c sd = t &&& ~~~ cfg.ownMask c sd ∧
    (ByteFn.pack c sd k m).apply cfg t &&& ~~~ cfg.ownMask c sd = t &&& ~~~ cfg.ownMask c sd ∧
    (ByteFn.packBoth c k kr m).apply cfg t &&& ~~~ (cfg.ownMask c .left ||| cfg.ownMask c .right) =
      t &&& ~~~ (cfg.ownMask c .left ||| cfg.ownMask c .right)

/-- R148 (first sentence), R140, R141, R150, R151: the owned bits are the code and the enable bits, whatever the byte
read had there; mute clears the enable bits and keeps the code field; packing again the byte packed gives it back. -/
def Obligations.PackDeterminesOwnedBits : Prop :=
  ∀ (cfg : Config) (c : Channel) (sd : Side) (t t' k : Byte) (m : Bool),
    cfg.wellFormed = true → cfg.inUse c = true → k.toNat < 2 ^ (cfg.chan c).codeWidth →
    cfg.packByte c sd t k m &&& cfg.ownMask c sd =
      (k <<< cfg.codeLsb c sd) ||| (if m then 0#8 else cfg.enMask c sd) ∧
    cfg.packByte c sd t k true &&& cfg.enMask c sd = 0#8 ∧
    cfg.packByte c sd t k false &&& cfg.enMask c sd = cfg.enMask c sd ∧
    cfg.packByte c sd t k m &&& cfg.fieldMask c sd = k <<< cfg.codeLsb c sd ∧
    (t &&& ~~~ cfg.ownMask c sd = t' &&& ~~~ cfg.ownMask c sd → cfg.packByte c sd t k m = cfg.packByte c sd t' k m) ∧
    cfg.packByte c sd (cfg.packByte c sd t k m) k m = cfg.packByte c sd t k m

/-- R145, corner case: on a shared register the two PACKs commute. -/
def Obligations.SharedSidesCommute : Prop :=
  ∀ (cfg : Config) (c : Channel) (t kl kr : Byte) (m : Bool),
    cfg.wellFormed = true → cfg.inUse c = true → cfg.regAddr c .left = cfg.regAddr c .right →
    cfg.packByte c .right (cfg.packByte c .left t kl m) kr m =
      cfg.packByte c .left (cfg.packByte c .right t kr m) kl m

/-! ### The bus and the codec -/

/-- R71, R67, R39: a transport that is a list of answers answers one transaction with its first; a failed write leaves
the registers it covers unknown, an `Ok` one-byte write its byte, an `Ok` longer write unknown registers; a read
answered with what an unknown register holds gets a free value. The model's choices in it: an empty list answers
nothing (log 5); a free value is `Config.codecByte` of a counter (log 6); a failed write makes all the registers its
payload covers unknown, where R67 speaks of the addressed one (log 7); so does an `Ok` write longer than one byte, and
no register outside those changes (log 8); a byte is learned while `codecKnown` holds (log 11); two addresses are two
registers (log 33). -/
def Obligations.ScriptedTransport : Prop :=
  ∀ (e : Env) (ord : ℕ) (lock a : Addr) (p : List Byte) (ans : BusAnswer) (l : List BusAnswer) (v : Byte),
    (e.transport = .script [] →
      e.answerWrite ord (encodeFrame a p) = none ∧ e.answerRead lock ord a = none) ∧
    (e.transport = .script (ans :: l) →
      (∃ e', e.answerWrite ord (encodeFrame a p) = some (decide (ans ≠ .fail), e') ∧ e'.transport = .script l ∧
        (ans = .fail ∨ 2 ≤ p.length → ∀ i < p.length, e'.peek (a + BitVec.ofNat 16 i).toNat = none) ∧
        (ans ≠ .fail → p = [v] → e.codecKnown = true → e'.peek a.toNat = some v) ∧
        ∀ x, (∀ i < p.length, x ≠ (a + BitVec.ofNat 16 i).toNat) → e'.peek x = e.peek x) ∧
      (∃ got e', e.answerRead lock ord a = some (got, e') ∧ e'.transport = .script l ∧ (∀ x, e'.peek x = e.peek x) ∧
        (ans = .fail → got = none) ∧ (∀ b, ans = .ok b → got = some b) ∧
        (∀ b, ans = .held → e.peek a.toNat = some b → got = some b) ∧
        (ans = .held → e.peek a.toNat = none → got = some (Config.codecByte e.draws) ∧ e'.draws = e.draws + 1)))

/-- R68: the mock bus. That a failed read of `LOCK_ADDR` uses up its byte of the lock script is the model's choice
(log 13). -/
def Obligations.MockBusAnswers : Prop :=
  ∀ (e : Env) (script : List Byte) (fails : List ℕ) (ord : ℕ) (lock a : Addr) (p : List Byte),
    e.transport = .mock script fails →
    (ord ∈ fails → e.answerWrite ord (encodeFrame a p) = some (false, e) ∧
      ∃ e', e.answerRead lock ord a = some (none, e') ∧ ∀ x, e'.peek x = e.peek x) ∧
    (ord ∉ fails →
      (∀ v, p = [v] → ∃ e', e.answerWrite ord (encodeFrame a p) = some (true, e') ∧ e'.transport = e.transport ∧
        e'.peek a.toNat = some v ∧ ∀ x, x ≠ a.toNat → e'.peek x = e.peek x) ∧
      (2 ≤ p.length → e.answerWrite ord (encodeFrame a p) = some (true, e)) ∧
      (a ≠ lock → ∃ b, e.peek a.toNat = some b ∧ e.answerRead lock ord a = some (some b, e)) ∧
      (∀ b l, a = lock → script = b :: l → e.answerRead lock ord a =
        some (some b, { e with transport := .mock (if l = [] then [b] else l) fails })))

/-- R111: SEND is one write transaction of the frame to `DEV_ADDR`; on `Ok` `IDX` advances; on `Fail` nothing is sent
again. That an unanswered write has no effect yet, at the codec either, is the model's choice (log 37; R69 speaks of the
block only). The last clause, that the codec changes at the registers
from `a` to `a + n - 1` only, is the model's choice: log 8 for a payload longer than one byte, log 7 for one that
failed, log 33 for two addresses being two registers. -/
def Obligations.SendIsOneWrite : Prop :=
  ∀ (s : State) (a : Addr) (p : List Byte), p ≠ [] →
    (∀ e, s.answerWrite (encodeFrame a p) = some (true, e) →
      exec (.send a p) s = .next { s with
        res := .ok, idx := s.idx + 1, env := e.noteWrite s.cfg false a p,
        trace := s.trace ++ [.write s.cfg.devAddr (encodeFrame a p) true] }) ∧
    (∀ e, s.answerWrite (encodeFrame a p) = some (false, e) →
      exec (.send a p) s = .next { s with
        res := .fail, env := e.noteWrite s.cfg false a p,
        trace := s.trace ++ [.write s.cfg.devAddr (encodeFrame a p) false] }) ∧
    (s.answerWrite (encodeFrame a p) = none → exec (.send a p) s = .next { s with res := .pending }) ∧
    (∀ t, exec (.send a p) s = .next t → SameOutside a p.length s t)

/-- R113: READ_REG is one read transaction; on `Ok` `IDX` advances and the byte is returned; no codec register
changes (R58). -/
def Obligations.ReadRegIsOneRead : Prop :=
  ∀ (s : State) (a : Addr),
    (∀ b e, s.answerRead a = some (some b, e) →
      exec (.readReg a) s = .next { s with
        res := .okByte b, idx := s.idx + 1, env := e.noteRead s.cfg a (some b),
        trace := s.trace ++ [.read s.cfg.devAddr a (some b)] }) ∧
    (∀ e, s.answerRead a = some (none, e) →
      exec (.readReg a) s = .next { s with
        res := .fail, env := e, trace := s.trace ++ [.read s.cfg.devAddr a none] }) ∧
    (s.answerRead a = none → exec (.readReg a) s = .next { s with res := .pending }) ∧
    (∀ t, exec (.readReg a) s = .next t → SameCodec s t)

/-- R112, one row: row `k`, where `k` rows are sent, goes out as its 3-byte frame, from row 0 on, whatever `IDX` holds;
a failure returns its index; past the last row nothing is sent. The model's choices in it: between two transactions
`call` holds the operation in progress and its count (log 15), `res` what it returned (log 14), and the codec changes at
the row's register only (log 33: two addresses are two registers); a write not answered has done nothing to the codec
(log 37). -/
def Obligations.SendTableSendsRow : Prop :=
  ∀ (s : State) (rows : List Row),
    let i := Instr.sendTable rows
    let k := s.callAt i
    (s.call = none → k = 0) ∧ (∀ n, s.call = some (i, n) → k = n) ∧
    (rows.length ≤ k → exec (.sendTable rows) s = .next { s with res := .ok, call := none }) ∧
    (∀ row, rows[k]? = some row →
      (∀ e, s.answerWrite (encodeFrame row.addr [row.value]) = some (true, e) →
        exec (.sendTable rows) s = .next { s with
          res := if rows.length ≤ k + 1 then .ok else .pending,
          call := if rows.length ≤ k + 1 then none else some (i, k + 1), idx := s.idx + 1,
          env := e.noteWrite s.cfg false row.addr [row.value],
          trace := s.trace ++ [.write s.cfg.devAddr (encodeFrame row.addr [row.value]) true] }) ∧
      (∀ e, s.answerWrite (encodeFrame row.addr [row.value]) = some (false, e) →
        exec (.sendTable rows) s = .next { s with
          res := .failAt k, call := none, env := e.noteWrite s.cfg false row.addr [row.value],
          trace := s.trace ++ [.write s.cfg.devAddr (encodeFrame row.addr [row.value]) false] }) ∧
      (s.answerWrite (encodeFrame row.addr [row.value]) = none →
        exec (.sendTable rows) s = .next { s with res := .pending }) ∧
      (∀ t, exec (.sendTable rows) s = .next t → SameOutside row.addr 1 s t))

/-- R112 and R115, which the spec derives from it: a table, begun at any `IDX`, puts all its writes on the trace in
order and returns `Ok` (at once, when it is empty), or, when the write of row `k` fails, exactly the first `k` writes
and the failed one, and returns `Fail(k)`. It begins where no SEND_TABLE of these rows is in progress, or where one has
sent no row yet (`call`, the model's own: log 15). -/
def Obligations.TableAbortsAtFirstFailure : Prop :=
  ∀ (s : State) (rows : List Row) (oks rest : List BusAnswer), s.callAt (.sendTable rows) = 0 →
    (∀ x ∈ oks, x ≠ .fail) →
    (oks.length = rows.length → s.env.transport = .script (oks ++ rest) →
      ∃ t, again (.sendTable rows) (max 1 rows.length) s = .next t ∧ t.res = .ok ∧ t.call = none ∧
        t.idx = s.idx + BitVec.ofNat 16 rows.length ∧ t.trace = s.trace ++ tableEntries s.cfg rows) ∧
    (∀ k, (hk : k < rows.length) → oks.length = k → s.env.transport = .script (oks ++ .fail :: rest) →
      ∃ t, again (.sendTable rows) (k + 1) s = .next t ∧ t.res = .failAt k ∧ t.call = none ∧
        t.idx = s.idx + BitVec.ofNat 16 k ∧ t.trace = s.trace ++ tableEntries s.cfg (rows.take k) ++
          [.write s.cfg.devAddr (encodeFrame rows[k].addr [rows[k].value]) false])

/-- R144: RMW is a read, then a write of `f(TMP)` to the same address, always issued; after a failed read no write
follows. The model's choices in it: `call` says between the two which one is next, so that an RMW begins with its read
whatever `IDX` holds (log 15); `TMP` still holds the byte read after the write (log 34); the write changes the codec at
the register `a` only (log 33: two addresses are two registers). -/
def Obligations.RmwReadsThenWrites : Prop :=
  ∀ (s : State) (a : Addr) (f : ByteFn), f.wellFormed s.cfg = true →
    let n := s.callAt (.rmw a f)
    (s.call = none → n = 0) ∧
    (n % 2 = 0 →
      (∀ b e, s.answerRead a = some (some b, e) →
        exec (.rmw a f) s = .next { s with
          res := .pending, call := some (.rmw a f, n + 1), tmp := b, idx := s.idx + 1,
          env := e.noteRead s.cfg a (some b), trace := s.trace ++ [.read s.cfg.devAddr a (some b)] }) ∧
      (∀ e, s.answerRead a = some (none, e) →
        exec (.rmw a f) s = .next { s with
          res := .fail, call := none, env := e, trace := s.trace ++ [.read s.cfg.devAddr a none] }) ∧
      (∀ t, exec (.rmw a f) s = .next t → SameCodec s t)) ∧
    (n % 2 = 1 →
      let frame := encodeFrame a [f.apply s.cfg s.tmp]
      (∀ e, s.answerWrite frame = some (true, e) →
        exec (.rmw a f) s = .next { s with
          res := .ok, call := none, idx := s.idx + 1, env := e.noteWrite s.cfg false a [f.apply s.cfg s.tmp],
          trace := s.trace ++ [.write s.cfg.devAddr frame true] }) ∧
      (∀ e, s.answerWrite frame = some (false, e) →
        exec (.rmw a f) s = .next { s with
          res := .fail, call := none, env := e.noteWrite s.cfg false a [f.apply s.cfg s.tmp],
          trace := s.trace ++ [.write s.cfg.devAddr frame false] }) ∧
      (∀ t, exec (.rmw a f) s = .next t → SameOutside a 1 s t))

/-- R64, last sentence: alone on the bus, with a transport whose read returns what the register holds, an RMW of one
side, and one that carries both sides of a shared register (R145), leaves every foreign bit of the register as it was,
writes its owned bits, and touches no other register. The model's choices in it: that the RMW begins where `call` says
that none of it is done (log 15), `codecKnown` (log 11), two addresses are two registers (log 33). -/
def Obligations.RmwKeepsForeignBitsOfCodec : Prop :=
  ∀ (s : State) (a : Addr) (c : Channel) (k : Side → Byte) (b x : Byte) (m : Bool) (rest : List BusAnswer),
    s.cfg.wellFormed = true → s.cfg.inUse c = true → (∀ sd, (k sd).toNat < 2 ^ (s.cfg.chan c).codeWidth) →
    s.env.codecKnown = true → s.env.peek a.toNat = some b →
    s.env.transport = .script (.held :: .ok x :: rest) →
    let owned (sd : Side) : Byte := (k sd <<< s.cfg.codeLsb c sd) ||| (if m then 0#8 else s.cfg.enMask c sd)
    let both : Byte := s.cfg.ownMask c .left ||| s.cfg.ownMask c .right
    (∀ sd, s.callAt (.rmw a (.pack c sd (k sd) m)) = 0 →
      ∃ t w, again (.rmw a (.pack c sd (k sd) m)) 2 s = .next t ∧ t.res = .ok ∧ t.env.peek a.toNat = some w ∧
      w &&& ~~~ s.cfg.ownMask c sd = b &&& ~~~ s.cfg.ownMask c sd ∧ w &&& s.cfg.ownMask c sd = owned sd ∧
      SameOutside a 1 s t) ∧
    (s.cfg.regAddr c .left = s.cfg.regAddr c .right → s.callAt (.rmw a (.packBoth c (k .left) (k .right) m)) = 0 →
      ∃ t w, again (.rmw a (.packBoth c (k .left) (k .right) m)) 2 s = .next t ∧ t.res = .ok ∧
        t.env.peek a.toNat = some w ∧ w &&& ~~~ both = b &&& ~~~ both ∧
        (∀ sd, w &&& s.cfg.ownMask c sd = owned sd) ∧ SameOutside a 1 s t)

/-- R145, one transaction: SET_GAIN goes through its moves from the first on, whatever `IDX` holds, left before right,
both sides in one where they share a register, the read of each before its write; entry writes `CH` and the codes with
the first read. The model's choices in it: between two transactions `call` holds the operation in progress and how many
are done (log 15); a write changes the codec at the register of its move only (log 33: two addresses are two registers).
After the write-back `TMP` still holds the byte read (log 34; R144: it is not kept), and `CH` and the codes stay as they
are once SET_GAIN has ended (log 39); both are the model's choices too. -/
def Obligations.SetGainTransactions : Prop :=
  ∀ (s : State) (c : Channel) (l r : ExtRat) (m : Bool) (mv : GainMove), s.cfg.inUse c = true →
    let moves : List GainMove :=
      if s.cfg.regAddr c .left = s.cfg.regAddr c .right then [⟨c, .both⟩] else [⟨c, .left⟩, ⟨c, .right⟩]
    let a := if mv.carry = .right then s.cfg.regAddr c .right else s.cfg.regAddr c .left
    let u := if mv.carry = .right then s else
      { s with ch := c, lcode := s.cfg.codeByte c l, rcode := s.cfg.codeByte c r }
    let w : Byte := match mv.carry with
      | .left => s.cfg.packByte c .left s.tmp s.lcode m
      | .right => s.cfg.packByte c .right s.tmp s.rcode m
      | .both => s.cfg.packByte c .right (s.cfg.packByte c .left s.tmp s.lcode m) s.rcode m
    let i := Instr.setGain c l r m
    let n := s.callAt i
    (s.call = none → n = 0) ∧
    (moves[n / 2]? = some mv → n % 2 = 0 →
      (∀ b e, s.answerRead a = some (some b, e) → exec (.setGain c l r m) s = .next { u with
        res := .pending, call := some (i, n + 1), tmp := b, idx := s.idx + 1, env := e.noteRead s.cfg a (some b),
        trace := s.trace ++ [.read s.cfg.devAddr a (some b)] }) ∧
      (∀ e, s.answerRead a = some (none, e) → exec (.setGain c l r m) s = .next { u with
        res := .fail, call := none, env := e, trace := s.trace ++ [.read s.cfg.devAddr a none] }) ∧
      (∀ t, exec (.setGain c l r m) s = .next t → SameCodec s t)) ∧
    (moves[n / 2]? = some mv → n % 2 = 1 →
      (∀ e, s.answerWrite (encodeFrame a [w]) = some (true, e) → exec (.setGain c l r m) s = .next { s with
        res := if 2 * moves.length ≤ n + 1 then .ok else .pending,
        call := if 2 * moves.length ≤ n + 1 then none else some (i, n + 1), idx := s.idx + 1,
        env := e.noteWrite s.cfg false a [w],
        trace := s.trace ++ [.write s.cfg.devAddr (encodeFrame a [w]) true] }) ∧
      (∀ e, s.answerWrite (encodeFrame a [w]) = some (false, e) → exec (.setGain c l r m) s = .next { s with
        res := .fail, call := none, env := e.noteWrite s.cfg false a [w],
        trace := s.trace ++ [.write s.cfg.devAddr (encodeFrame a [w]) false] }) ∧
      (∀ t, exec (.setGain c l r m) s = .next t → SameOutside a 1 s t))

/-- R145, R149: a SET_GAIN, begun at any `IDX`, whose transactions are all answered `Ok` puts exactly its reads and
writes on the trace, 4 or 2 of them, and returns `Ok`; when transaction `j` fails, exactly the first `j` and the failed
one, and it returns `Fail`; `IDX` advances with each `Ok`. It begins where `call` says that none of it is done (the
model's own: log 15). R148, R152, R200: alone on the bus, with a transport whose reads return what the registers hold,
it leaves in the codec the code of each side and its enables, the foreign bits each register had, and every other
register as it was (`codecKnown` is log 11, two addresses as two registers log 33). That `CH`, `LCODE` and `RCODE` still
hold its channel and codes after its end is the model's choice (log 39). -/
def Obligations.SetGainTrace : Prop :=
  ∀ (s : State) (c : Channel) (l r : ExtRat) (m : Bool) (reads : List Byte) (rest : List BusAnswer),
    s.cfg.inUse c = true → s.callAt (.setGain c l r m) = 0 →
    reads.length = (if s.cfg.regAddr c .left = s.cfg.regAddr c .right then 1 else 2) →
    let entries := moveEntries s.cfg l r m (gainMoves s.cfg c) reads
    (s.env.transport = .script (moveAnswers reads ++ rest) →
      ∃ t, again (.setGain c l r m) (2 * reads.length) s = .next t ∧ t.res = .ok ∧ t.call = none ∧
        t.idx = s.idx + BitVec.ofNat 16 (2 * reads.length) ∧ t.trace = s.trace ++ entries ∧
        t.ch = c ∧ t.lcode = s.cfg.codeByte c l ∧ t.rcode = s.cfg.codeByte c r ∧
        t.st = s.st ∧ t.failed = s.failed ∧ t.busy = s.busy ∧ t.errKind = s.errKind ∧ t.errIndex = s.errIndex) ∧
    (∀ j, (hj : j < entries.length) → s.env.transport = .script ((moveAnswers reads).take j ++ .fail :: rest) →
      ∃ t, again (.setGain c l r m) (j + 1) s = .next t ∧ t.res = .fail ∧ t.call = none ∧
        t.idx = s.idx + BitVec.ofNat 16 j ∧ t.trace = s.trace ++ entries.take j ++ [entries[j].asFailed]) ∧
    (s.cfg.wellFormed = true → s.env.codecKnown = true →
      s.env.transport = .script ((reads.flatMap fun _ => [.held, .ok 0]) ++ rest) →
      let own (sd : Side) : Byte :=
        if s.cfg.regAddr c .left = s.cfg.regAddr c .right then s.cfg.ownMask c .left ||| s.cfg.ownMask c .right
        else s.cfg.ownMask c sd
      let code (sd : Side) : Byte := s.cfg.codeByte c (match sd with | .left => l | .right => r)
      ∃ t, again (.setGain c l r m) (2 * reads.length) s = .next t ∧ t.res = .ok ∧
        (∀ sd, ∃ w, t.env.peek (s.cfg.regAddr c sd).toNat = some w ∧
          w &&& s.cfg.ownMask c sd =
            (code sd <<< s.cfg.codeLsb c sd) ||| (if m then 0#8 else s.cfg.enMask c sd) ∧
          ∀ b, s.env.peek (s.cfg.regAddr c sd).toNat = some b → w &&& ~~~ own sd = b &&& ~~~ own sd) ∧
        ∀ x, (∀ sd, x ≠ (s.cfg.regAddr c sd).toNat) → t.env.peek x = s.env.peek x)

/-- U9, R110, R145: the operands outside an internal operation's domain are refused by name: an empty payload, in
ENCODE, SEND and a command of T2 (which R11 (10) rules out); a channel that is not in use, so that it has no parameters
(log 20). -/
def Obligations.OperandsOutsideDomainRefused : Prop :=
  ∀ (s : State) (a : Addr),
    exec (.encode a []) s = .refused .emptyPayload ∧ exec (.send a []) s = .refused .emptyPayload ∧
    (∀ cmds b, s.cfg.pllCommands = .ok cmds → cmds[s.pos.toNat]? = some ⟨b, []⟩ →
      exec .t2 s = .refused .emptyPayload) ∧
    (s.cfg.hasMic = false → ∀ (d l r : ExtRat) (sd : Side) (t k k' : Byte) (m : Bool),
      ∀ i ∈ [Instr.clamp .micIn d, .qcode .micIn d, .quantize .micIn l r, .pack .micIn sd t k m,
          .rmw a (.pack .micIn sd k m), .rmw a (.packBoth .micIn k k' m), .setGain .micIn l r m],
        exec i s = .refused .channelNotInUse)

/-! ### Errors, commands -/

/-- R216: RAISE ends the operation in progress with the error's code and index and one response word, and sets `FAILED`
when that operation is START; `ST` and everything else stay. -/
def Obligations.RaiseEndsOperation : Prop :=
  ∀ (s : State) (k : ErrKind) (i : BitVec 16),
    exec (.raise k i) s = .next (s.ended (.err k) i (s.failed || (s.busy && s.op == 0#3)))

/-- R190, R160, R91, R169: START is accepted whenever `BUSY = 0`, whatever `ST` and `FAILED` hold: the operands are
latched, `BUSY` is set, `FAILED` cleared, `ST` is `Reset`, and nothing else of the block changes. The codec's registers
are any value after it unless it is the first since the codec's own reset (U3; log 11). -/
def Obligations.StartAccepted : Prop :=
  ∀ (s : State) (l r : F32) (m : Bool), s.busy = false →
    exec (.start l r m) s = .next { s with
      op := 0#3, mute := m, leftDb := l, rightDb := r, busy := true, failed := false, st := .reset, entered := false,
      env := s.env.noteStart } ∧
    (s.env.isMock = true ∨ s.env.codecFresh = true → ∀ x, s.env.noteStart.peek x = s.env.peek x) ∧
    (s.env.isMock = false → s.env.codecFresh = false → ∀ x, s.env.noteStart.peek x = none)

/-- R190 to R197: each of the five gain commands is accepted when `BUSY = 0`, `ST = Ready` and its channel is in use:
the operands are latched, `BUSY` set, `IDX` cleared, and nothing else changes. -/
def Obligations.GainCommandsAccepted : Prop :=
  ∀ (s : State) (l r : F32) (m : Bool), s.busy = false → s.st = .ready →
    let u : State := { s with mute := m, leftDb := l, rightDb := r, busy := true, idx := 0 }
    exec (.setLineInGain l r m) s = .next { u with op := 1#3 } ∧
    exec (.setAuxInGain l r m) s = .next { u with op := 2#3 } ∧
    (s.cfg.hasMic = true → exec (.setMicInGain l r m) s = .next { u with op := 3#3 }) ∧
    exec (.setLineOutGain l r m) s = .next { u with op := 4#3 } ∧
    exec (.setHpOutGain l r m) s = .next { u with op := 5#3 }

/-- R220, R191, R35: a legal gain command accepted while `ST` is not `Ready` ends at once with `NotReady` and index 0;
its acceptance clears `IDX`; no transaction, `ST` and `FAILED` stay. -/
def Obligations.GainCommandsNotReady : Prop :=
  ∀ (s : State) (l r : F32) (m : Bool), s.busy = false → s.st ≠ .ready →
    let answer (op : BitVec 3) : State :=
      State.ended { s with op := op, mute := m, leftDb := l, rightDb := r, idx := 0 } (.err .notReady) 0 s.failed
    exec (.setLineInGain l r m) s = .next (answer 1) ∧
    exec (.setAuxInGain l r m) s = .next (answer 2) ∧
    (s.cfg.hasMic = true → exec (.setMicInGain l r m) s = .next (answer 3)) ∧
    exec (.setLineOutGain l r m) s = .next (answer 4) ∧
    exec (.setHpOutGain l r m) s = .next (answer 5)

/-- R89, R90, R215, R222: the reserved opcodes, `SET_MIC_IN_GAIN` without `HAS_MIC`, and a word with `RSV != 0` are
accepted and answered with `IllegalCommand` and index 0, in any sequencer state; no transaction, `ST` and `FAILED`
stay. -/
def Obligations.IllegalCommandsAnswered : Prop :=
  ∀ (s : State) (l r : F32) (m : Bool), s.busy = false →
    let answer (op : BitVec 3) (u : State) : State :=
      State.ended { u with op := op, mute := m, leftDb := l, rightDb := r } (.err .illegalCommand) 0 u.failed
    exec (.reservedOp6 l r m) s = .next (answer 6 s) ∧
    exec (.reservedOp7 l r m) s = .next (answer 7 s) ∧
    (s.cfg.hasMic = false → exec (.setMicInGain l r m) s = .next (answer 3 s)) ∧
    (∀ (rsv : BitVec 4) (op : BitVec 3) (rest : List (BitVec 72)), rsv ≠ 0 → s.cfg.wellFormed = true →
      s.env.stimuli = [] → s.cmdIn = cmdWord rsv m op l r :: rest →
      step s = .next (answer op { settle s with cmdIn := rest }))

/-- R190: while `BUSY = 1` the host's words are held: none is accepted, queued or dropped, and the latches of the
operation in progress stay. A word is taken, and its operands latched, in a step that finds `BUSY = 0`. -/
def Obligations.CommandsHeldWhileBusy : Prop :=
  ∀ s t : State, step s = .next t → rstHigh s = false →
    (s.busy = true → t.cmdIn = s.cmdIn ∧ t.op = s.op ∧ t.mute = s.mute ∧ t.leftDb = s.leftDb ∧ t.rightDb = s.rightDb) ∧
    (∀ w rest, s.busy = false → s.cmdIn = w :: rest →
      t.cmdIn = rest ∧ t.op = w.extractLsb' 64 3 ∧ t.mute = w.getLsbD 67 ∧ t.leftDb = w.extractLsb' 32 32 ∧
        t.rightDb = w.extractLsb' 0 32)

/-- R192 to R197, one transaction of a gain command in progress: the reads and the writes of its SET_GAIN with the
decoded latches; after the last write the command ends with `OK`, on a failure with `BusError(IDX)`; `ST` and `FAILED`
stay. That a write changes the codec at the register of its move only is the model's choice (log 33: two addresses are
two registers). So is that after the write-back `TMP` still holds the byte read (log 34; R144: it is not kept), and that
`CH` and the codes stay as they are once SET_GAIN has ended (log 39). -/
def Obligations.GainCommandTransactions : Prop :=
  ∀ (s : State) (op : BitVec 3) (c : Channel) (i : Instr) (mv : GainMove),
    (op, c, i) ∈ [(1#3, Channel.lineIn, Instr.setLineInGain s.leftDb s.rightDb s.mute),
      (2#3, Channel.auxIn, .setAuxInGain s.leftDb s.rightDb s.mute),
      (3#3, Channel.micIn, .setMicInGain s.leftDb s.rightDb s.mute),
      (4#3, Channel.lineOut, .setLineOutGain s.leftDb s.rightDb s.mute),
      (5#3, Channel.hpOut, .setHpOutGain s.leftDb s.rightDb s.mute)] →
    s.busy = true → s.op = op → (gainMoves s.cfg c)[s.idx.toNat / 2]? = some mv →
    let a := mv.addr s.cfg
    let u := if mv.carry = .right then s else
      { s with ch := c, lcode := s.cfg.codeByte c (f32Value s.leftDb), rcode := s.cfg.codeByte c (f32Value s.rightDb) }
    let w := (mv.fn s.lcode s.rcode s.mute).apply s.cfg s.tmp
    (s.idx.toNat % 2 = 0 →
      (∀ b e, s.answerRead a = some (some b, e) → exec i s = .next { u with
        tmp := b, idx := s.idx + 1, env := e.noteRead s.cfg a (some b),
        trace := s.trace ++ [.read s.cfg.devAddr a (some b)] }) ∧
      (∀ e, s.answerRead a = some (none, e) → exec i s = .next (State.ended { u with
        env := e, trace := s.trace ++ [.read s.cfg.devAddr a none] } (.err .busError) s.idx s.failed)) ∧
      (∀ t, exec i s = .next t → SameCodec s t)) ∧
    (s.idx.toNat % 2 = 1 →
      (∀ e, s.answerWrite (encodeFrame a [w]) = some (true, e) →
        let t : State := { s with
          idx := s.idx + 1, env := e.noteWrite s.cfg false a [w],
          trace := s.trace ++ [.write s.cfg.devAddr (encodeFrame a [w]) true] }
        exec i s = .next (if 2 * (gainMoves s.cfg c).length ≤ s.idx.toNat + 1 then t.ended .ok 0 s.failed else t)) ∧
      (∀ e, s.answerWrite (encodeFrame a [w]) = some (false, e) → exec i s = .next (State.ended { s with
        env := e.noteWrite s.cfg false a [w],
        trace := s.trace ++ [.write s.cfg.devAddr (encodeFrame a [w]) false] } (.err .busError) s.idx s.failed)) ∧
      (∀ t, exec i s = .next t → SameOutside a 1 s t))

/-- R192, R190, R199: the whole of a gain command: offered to a `Ready` idle block whose transport answers, it ends
after its 2 or 4 transactions with `OK`, its trace exactly R145's; when transaction `j` fails it ends there with
`BusError(j)`. `ST` and `FAILED` stay, and no operand value makes it fail. The count of steps, one for the acceptance
and one for each transaction, with the end in the last, is the model's choice (log 3). -/
def Obligations.GainCommandRun : Prop :=
  ∀ (s : State) (op : BitVec 3) (l r : F32) (m : Bool) (more : List (BitVec 72)) (reads : List Byte)
    (rest : List BusAnswer),
    s.cfg.wellFormed = true → s.busy = false → s.st = .ready → s.env.stimuli = [] →
    1 ≤ op.toNat → op.toNat ≤ 5 → s.cfg.inUse (channelOf op) = true → s.cmdIn = cmdWord 0 m op l r :: more →
    let moves := gainMoves s.cfg (channelOf op)
    let entries := moveEntries s.cfg (f32Value l) (f32Value r) m moves reads
    let word (k : Status) (i : BitVec 16) : BitVec 32 :=
      i ++ 0#4 ++ BitVec.ofBool s.failed ++ SeqState.ready.code ++ 0#5 ++ k.code
    reads.length = moves.length →
    (s.env.transport = .script (moveAnswers reads ++ rest) →
      ∃ t, Host.Core.run core (1 + 2 * moves.length) s = .next t ∧ t.busy = false ∧ t.st = .ready ∧
        t.failed = s.failed ∧ t.cmdIn = more ∧ t.trace = s.trace ++ entries ∧
        t.responses = s.responses ++ [word .ok 0] ∧ t.errKind = .ok ∧ t.errIndex = 0) ∧
    (∀ j, (hj : j < entries.length) → s.env.transport = .script ((moveAnswers reads).take j ++ .fail :: rest) →
      ∃ t, Host.Core.run core (1 + (j + 1)) s = .next t ∧ t.busy = false ∧ t.st = .ready ∧
        t.failed = s.failed ∧ t.cmdIn = more ∧ t.trace = s.trace ++ entries.take j ++ [entries[j].asFailed] ∧
        t.responses = s.responses ++ [word (.err .busError) (BitVec.ofNat 16 j)] ∧
        t.errKind = .err .busError ∧ t.errIndex = BitVec.ofNat 16 j)

/-! ### The bring-up sequencer -/

/-- R161 (T1) and R164 (T4): `IDX <- 0`, one blind one-byte write of the clock-source-select register; on `Ok` the next
sequencer state, on `Fail` `BusError(0)` with `ST` kept and `FAILED` set. In a state where the entry actions are done
`IDX` is 0, as the invariant says. That the write changes the codec at `CLKSEL_ADDR` only is the model's choice (log 33:
two addresses are two registers). -/
def Obligations.ClockSourceWrites : Prop :=
  ∀ (s : State) (i : Instr) (v : Byte) (target : SeqState),
    (i, v, target) ∈ [(Instr.t1, s.cfg.clkselDefault, SeqState.clockSourceDefault),
      (Instr.t4, s.cfg.clkselPll, SeqState.clockSourcePll)] →
    (s.entered = true → s.idx = 0) →
    let frame : List Byte := [s.cfg.clkselAddr.extractLsb' 8 8, s.cfg.clkselAddr.extractLsb' 0 8, v]
    (∀ e, s.answerWrite frame = some (true, e) → exec i s = .next { s with
      st := target, idx := 1, entered := false, env := e.noteWrite s.cfg false s.cfg.clkselAddr [v],
      trace := s.trace ++ [.write s.cfg.devAddr frame true] }) ∧
    (∀ e, s.answerWrite frame = some (false, e) → exec i s = .next (State.ended { s with
      idx := 0, entered := true, env := e.noteWrite s.cfg false s.cfg.clkselAddr [v],
      trace := s.trace ++ [.write s.cfg.devAddr frame false] } (.err .busError) 0 true)) ∧
    (∀ t, exec i s = .next t → SameOutside s.cfg.clkselAddr 1 s t)

/-- R162, T2: `BoardError(0)` with no transaction; otherwise the command at position `IDX` is sent; after the last, or
with none, `ST` is `PllConfiguring`; a failure is `BusError` with the command's index. That registers outside the `n`
from the command's address on keep their content is the model's choice: log 8 for a payload longer than one byte, log 7
for one that failed, log 33 for two addresses being two registers. -/
def Obligations.PllConfigurationWrites : Prop :=
  ∀ s : State,
    let u : State := { s with idx := s.pos, entered := true }
    (s.cfg.pllCommands = .boardError → exec .t2 s = .next (u.ended (.err .boardError) 0 true)) ∧
    (∀ cmds, s.cfg.pllCommands = .ok cmds →
      (cmds.length ≤ s.pos.toNat →
        exec .t2 s = .next { u with st := .pllConfiguring, entered := false }) ∧
      (∀ k, cmds[s.pos.toNat]? = some k → k.payload ≠ [] →
        (∀ e, s.answerWrite (encodeFrame k.addr k.payload) = some (true, e) →
          let t : State := { u with
            idx := s.pos + 1, env := e.noteWrite s.cfg true k.addr k.payload,
            trace := s.trace ++ [.write s.cfg.devAddr (encodeFrame k.addr k.payload) true] }
          exec .t2 s = .next (if cmds.length ≤ s.pos.toNat + 1 then
            { t with st := .pllConfiguring, entered := false } else t)) ∧
        (∀ e, s.answerWrite (encodeFrame k.addr k.payload) = some (false, e) →
          exec .t2 s = .next (State.ended { u with
            env := e.noteWrite s.cfg true k.addr k.payload,
            trace := s.trace ++ [.write s.cfg.devAddr (encodeFrame k.addr k.payload) false] }
              (.err .busError) s.pos true)) ∧
        (∀ t, exec .t2 s = .next t → SameOutside k.addr k.payload.length s t)))

/-- R163, R222, T3: one read of `LOCK_ADDR`. `Fail` is `BusError(POLL_CNT)`; every bit of `LOCK_MASK` set is
`PllLocked`; otherwise `POLL_CNT` advances, and at `POLL_MAX` it is `PllLockTimeout(POLL_MAX)`, `ST` kept and `FAILED`
set. Entry clears `IDX` and `POLL_CNT`. -/
def Obligations.LockPolling : Prop :=
  ∀ s : State,
    let n : BitVec 16 := if s.entered then s.pollCnt else 0
    let u : State := { s with idx := s.pos, pollCnt := n, entered := true }
    (∀ e, s.answerRead s.cfg.lockAddr = some (none, e) →
      exec .t3 s = .next (State.ended { u with
        env := e, trace := s.trace ++ [.read s.cfg.devAddr s.cfg.lockAddr none] } (.err .busError) n true)) ∧
    (∀ b e, s.answerRead s.cfg.lockAddr = some (some b, e) →
      let t : State := { u with
        idx := s.pos + 1, env := e.noteRead s.cfg s.cfg.lockAddr (some b),
        trace := s.trace ++ [.read s.cfg.devAddr s.cfg.lockAddr (some b)] }
      (b &&& s.cfg.lockMask = s.cfg.lockMask →
        exec .t3 s = .next { t with st := .pllLocked, entered := false }) ∧
      (b &&& s.cfg.lockMask ≠ s.cfg.lockMask → (n + 1).toNat ≠ s.cfg.pollMax →
        exec .t3 s = .next { t with pollCnt := n + 1 }) ∧
      (b &&& s.cfg.lockMask ≠ s.cfg.lockMask → (n + 1).toNat = s.cfg.pollMax →
        exec .t3 s = .next (State.ended { t with pollCnt := n + 1 } (.err .pllLockTimeout)
          (BitVec.ofNat 16 s.cfg.pollMax) true))) ∧
    (∀ t, exec .t3 s = .next t → SameCodec s t)

/-- R165, T5: `BoardError(0)` with no transaction; otherwise the row at position `IDX` is sent; after the last, or with
none, `ST` is `BoardConfiguring`; a failure is `BusError` with the row's index. That the write changes the codec at the
row's register only is the model's choice (log 33: two addresses are two registers). -/
def Obligations.BoardTableReplay : Prop :=
  ∀ s : State,
    let u : State := { s with idx := s.pos, entered := true }
    (s.cfg.boardTable = .boardError → exec .t5 s = .next (u.ended (.err .boardError) 0 true)) ∧
    (∀ rows, s.cfg.boardTable = .ok rows →
      (rows.length ≤ s.pos.toNat →
        exec .t5 s = .next { u with st := .boardConfiguring, entered := false }) ∧
      (∀ row, rows[s.pos.toNat]? = some row →
        (∀ e, s.answerWrite (encodeFrame row.addr [row.value]) = some (true, e) →
          let t : State := { u with
            idx := s.pos + 1, env := e.noteWrite s.cfg false row.addr [row.value],
            trace := s.trace ++ [.write s.cfg.devAddr (encodeFrame row.addr [row.value]) true] }
          exec .t5 s = .next (if rows.length ≤ s.pos.toNat + 1 then
            { t with st := .boardConfiguring, entered := false } else t)) ∧
        (∀ e, s.answerWrite (encodeFrame row.addr [row.value]) = some (false, e) →
          exec .t5 s = .next (State.ended { u with
            env := e.noteWrite s.cfg false row.addr [row.value],
            trace := s.trace ++ [.write s.cfg.devAddr (encodeFrame row.addr [row.value]) false] }
              (.err .busError) s.pos true)) ∧
        (∀ t, exec .t5 s = .next t → SameOutside row.addr 1 s t)))

/-- R166, T6: the transaction at position `IDX` of SET_GAIN 0 dB, unmuted, on `LINE_IN`, `AUX_IN`, `LINE_OUT`, `HP_OUT`
in that order; after the last `ST` is `Ready`; a failure is `BusError(IDX)`. That a write changes the codec at the
register of its move only is the model's choice (log 33: two addresses are two registers). So is that after the
write-back `TMP` still holds the byte read (log 34; R144: it is not kept), and that `CH` and the codes stay as they are
once SET_GAIN has ended (log 39). -/
def Obligations.DefaultGains : Prop :=
  ∀ (s : State) (mv : GainMove),
    let moves := gainMoves s.cfg .lineIn ++ gainMoves s.cfg .auxIn ++ gainMoves s.cfg .lineOut ++
      gainMoves s.cfg .hpOut
    moves[s.pos.toNat / 2]? = some mv →
    let a := mv.addr s.cfg
    let u : State := { s with idx := s.pos, entered := true }
    let z : ExtRat := .fin 0
    let q : State := if mv.carry = .right then u else
      { u with ch := mv.ch, lcode := s.cfg.codeByte mv.ch z, rcode := s.cfg.codeByte mv.ch z }
    let w := (mv.fn s.lcode s.rcode false).apply s.cfg s.tmp
    (s.pos.toNat % 2 = 0 →
      (∀ b e, s.answerRead a = some (some b, e) → exec .t6 s = .next { q with
        tmp := b, idx := s.pos + 1, env := e.noteRead s.cfg a (some b),
        trace := s.trace ++ [.read s.cfg.devAddr a (some b)] }) ∧
      (∀ e, s.answerRead a = some (none, e) → exec .t6 s = .next (State.ended { q with
        env := e, trace := s.trace ++ [.read s.cfg.devAddr a none] } (.err .busError) s.pos true)) ∧
      (∀ t, exec .t6 s = .next t → SameCodec s t)) ∧
    (s.pos.toNat % 2 = 1 →
      (∀ e, s.answerWrite (encodeFrame a [w]) = some (true, e) →
        let t : State := { u with
          idx := s.pos + 1, env := e.noteWrite s.cfg false a [w],
          trace := s.trace ++ [.write s.cfg.devAddr (encodeFrame a [w]) true] }
        exec .t6 s = .next (if 2 * moves.length ≤ s.pos.toNat + 1 then
          { t with st := .ready, entered := false } else t)) ∧
      (∀ e, s.answerWrite (encodeFrame a [w]) = some (false, e) → exec .t6 s = .next (State.ended { u with
        env := e.noteWrite s.cfg false a [w],
        trace := s.trace ++ [.write s.cfg.devAddr (encodeFrame a [w]) false] } (.err .busError) s.pos true)) ∧
      (∀ t, exec .t6 s = .next t → SameOutside a 1 s t))

/-- R167: READY ends the START with `OK`, index 0 and a response; `ST` and `FAILED` stay, and in a START that reaches
it `FAILED` is 0. -/
def Obligations.ReadyEndsStart : Prop :=
  ∀ s : State, exec .ready s = .next (s.ended .ok 0 s.failed) ∧
    (s.Inv → s.busy = true → s.op = 0#3 → exec .ready s = .next (s.ended .ok 0 false))

/-! ### The machine -/

/-- A step runs what the fetch decodes (R35, R96, R190), in the state `u` that the writes still due leave (R14; log 3).
With no stimulus pending: in an idle block the decoded command word, which leaves the port; in a START the transition
`ST` decodes to; in a gain command the command of the latches; an idle block with no word offered stays as it is. An
operation in progress whose instruction answers `t`: where it ends, `t` is the state after the step; where its
transaction is done and another follows, what the instruction wrote beside the bus, the codec and the entry actions is
due, and done it gives `t`; where its transaction is not answered, the state stays (R69; that a write then leaves the
codec too is the model's choice, log 37). -/
def Obligations.StepRunsFetchedInstruction : Prop :=
  ∀ s : State, s.cfg.wellFormed = true → s.env.stimuli = [] →
    let u := settle s
    let runs (i : Instr) : Prop :=
      step s = landOutcome s u (exec i u) ∧
      ∀ t, exec i u = .next t →
        (t.busy = false → step s = .next t) ∧
        (t.busy = true → ∀ x, t.trace = s.trace ++ [x] → step s = .next (hold (entry u) t) ∧
          settle (hold (entry u) t) = skipEmpty t) ∧
        (t.busy = true → t.trace = s.trace → nextRequest s ≠ none → step s = .next s) ∧
        (t.busy = true → t.trace = s.trace → nextRequest s = none → step s = .next t)
    (∀ w rest i, s.busy = false → s.cmdIn = w :: rest → decode (.cmd w) = .ok i →
      step s = exec i { u with cmdIn := rest }) ∧
    (∀ i, s.busy = true → s.op = 0#3 → decode (.st u.st.code) = .ok i → runs i) ∧
    (∀ i, s.busy = true → s.op ≠ 0#3 → decode (.cmd (cmdWord 0 s.mute s.op s.leftDb s.rightDb)) = .ok i → runs i) ∧
    (s.busy = false → s.cmdIn = [] → step s = .next u) ∧
    (s.due = none → u = s)

/-- R11, with R10's `CODE_WIDTH >= 1`: a step is refused, with no other effect, exactly when the configuration fails one
of the conditions (1) to (11). -/
def Obligations.IllFormedConfigurationRefused : Prop :=
  ∀ cfg : Config,
    let used (c : Channel) : Prop := c = .micIn → cfg.hasMic = true
    let own (c : Channel) (sd : Side) : Byte := cfg.fieldMask c sd ||| cfg.enMask c sd
    let ok : Prop :=
      cfg.devAddr.toNat ≤ 127 ∧ 1 ≤ cfg.pollMax ∧ cfg.lockMask ≠ 0#8 ∧ cfg.clkselDefault ≠ cfg.clkselPll ∧
      (∀ c, used c → (cfg.chan c).minDb ≤ (cfg.chan c).maxDb ∧ 0 < (cfg.chan c).step) ∧
      (∀ c sd, used c → 1 ≤ (cfg.chan c).codeWidth ∧ cfg.codeLsb c sd + (cfg.chan c).codeWidth ≤ 8) ∧
      (∀ c sd, used c → cfg.fieldMask c sd &&& cfg.enMask c sd = 0#8 ∧ cfg.enMask c sd ≠ 0#8) ∧
      (∀ c, used c → 0 ≤ (cfg.chan c).minCode ∧ (cfg.chan c).minCode ≤ (cfg.chan c).maxCode ∧
        (cfg.chan c).maxCode < 2 ^ (cfg.chan c).codeWidth) ∧
      (∀ c sd c' sd', used c → used c' → (c, sd) ≠ (c', sd') → cfg.regAddr c sd = cfg.regAddr c' sd' →
        own c sd &&& own c' sd' = 0#8) ∧
      (∀ k ∈ cfg.pllCommands.entries, k.payload ≠ []) ∧
      cfg.pollMax < 2 ^ 16 ∧ cfg.pllCommands.entries.length < 2 ^ 16 ∧ cfg.boardTable.entries.length < 2 ^ 16
    ∀ s : State, s.cfg = cfg → (step s = .refused .configIllFormed ↔ ¬ ok)

/-- R42: the state after reset, every value the spec gives, for every configuration; `State.reset` is that state for
`CFG_EX` (log 1). -/
def Obligations.ResetValues : Prop :=
  (∀ cfg : Config, let s := State.resetWith cfg
    s.cfg = cfg ∧ s.st = .reset ∧ s.busy = false ∧ s.failed = false ∧ s.errKind = .ok ∧ s.errIndex = 0 ∧
      s.pollCnt = 0 ∧ s.idx = 0 ∧ s.cmdReady = true ∧ (∀ x, s.env.peek x = none)) ∧
  State.reset = State.resetWith Config.cfgEx ∧ Config.cfgEx.wellFormed = true

/-- R240, R241, R242: `rst` sampled high puts every register of the block at its reset value, abandons the operation
without a response or a further transaction, and leaves the configuration and the codec alone, but for the registers of
a write in flight, which hold any value as after a failed write, and for what other agents do in the same step. The
model's choices in it: the values of the latches and working registers (log 2); the cut-off transaction leaves no entry
and uses up no answer (log 10); trace and responses stay, as records (log 25); the extent of a cut-off write of more
than one byte (log 7, log 8); the other agents' events of the step come first (log 9); registers outside the cut-off
write keep their content, as two addresses are two registers (log 33). That a word offered in the step stays on the port
and runs after the reset is the model's choice too (log 41). -/
def Obligations.ResetAbandonsOperation : Prop :=
  ∀ (s : State) (evs : List EnvEvent) (rest : List Stimulus), s.cfg.wellFormed = true →
    s.env.stimuli = ⟨true, evs⟩ :: rest →
    (evs = [] → ∀ x, (intake s).env.peek x = s.env.peek x) ∧
    ∃ e, step s = .next { State.resetWith s.cfg with
        env := e, cmdIn := s.cmdIn, responses := s.responses, trace := s.trace } ∧
      e.transport = s.env.transport ∧ e.stimuli = rest ∧
      (∀ pll a p, nextRequest s = some (.write pll (encodeFrame a p)) →
        (s.env.isMock = false → ∀ i < p.length, e.peek (a + BitVec.ofNat 16 i).toNat = none) ∧
        ∀ x, (∀ i < p.length, x ≠ (a + BitVec.ofNat 16 i).toNat) → e.peek x = (intake s).env.peek x) ∧
      ((∀ pll bytes, nextRequest s ≠ some (.write pll bytes)) → ∀ x, e.peek x = (intake s).env.peek x)

/-- Every step keeps the invariant `State.Inv`: the codec registers in canonical form; `FAILED` implies not `Ready`
(R24); `ERR_INDEX` 0 with `OK` (R25); only a legal command in progress, a gain command only in `Ready` (R191), a START
only unfailed; `IDX` below the length of the current plan (R35); `POLL_CNT` below `POLL_MAX` in T3 (R34). All of it
holds of the registers as they stand and once what is due is done (R14; log 3). -/
def Obligations.StepKeepsInvariant : Prop :=
  ∀ s t : State, s.Inv → step s = .next t → t.Inv

/-- The invariants hold at reset, whatever the configuration. -/
def Obligations.InvariantsAtReset : Prop :=
  ∀ cfg : Config, (State.resetWith cfg).Inv ∧ (State.resetWith cfg).LockInv ∧ (State.resetWith cfg).SwitchAfterLock ∧
    (State.resetWith cfg).StartLocked ∧ (State.resetWith cfg).env.exclusive = true ∧
    (State.resetWith cfg).env.noCodecReset = true

/-- R249, U1, with `PROFILE_CLEAN` and no codec reset: the PLL clock is selected only with a locked read since the last
PLL write. With `EXCL` of R63 at it, no step of a START marks the clock-source hazard, whatever the codec changes
itself. Under the stronger premise that no other client issues a transaction in any step to come (the model's, log 35)
no step at all marks it. How the mark is set is log 12. -/
def Obligations.ClockHazardNeverMarked : Prop :=
  ∀ s t : State, s.Inv → profileClean s.cfg = true → step s = .next t →
    profileClean t.cfg = true ∧
    (s.StartLocked → s.excl = true → (∀ x ∈ s.env.stimuli.head?, .codecReset ∉ x.events) →
      t.StartLocked ∧ (s.inStart = true → t.env.clkHazard = s.env.clkHazard)) ∧
    (s.LockInv → s.env.exclusive = true → s.env.noCodecReset = true →
      t.LockInv ∧ t.env.exclusive = true ∧ t.env.noCodecReset = true)

/-- R171, R164: whenever T4 is the next transition the last entry of the trace is a locked read, and every step keeps
it so, whatever the bus and other agents do; the transaction T4 then issues is the write of `CLKSEL_PLL`. -/
def Obligations.ClockSwitchFollowsLock : Prop :=
  ∀ s t : State, s.SwitchAfterLock → step s = .next t → t.SwitchAfterLock ∧
    (s.inStart = true → (settle s).st = .pllLocked → rstHigh s = false → t.trace ≠ s.trace → ∃ pre b ok,
      b &&& s.cfg.lockMask = s.cfg.lockMask ∧
      t.trace = pre ++ [.read s.cfg.devAddr s.cfg.lockAddr (some b),
        .write s.cfg.devAddr (encodeFrame s.cfg.clkselAddr [s.cfg.clkselPll]) ok])

/-- R60, R35, R57: a step issues at most one transaction, the one `ST`, `IDX` and `OP` select, after the step's other
events; the configuration never changes (R20). R14, last clause: `ST`, `IDX`, `TMP` and `POLL_CNT` after a transaction
that another one follows are those it was issued with, entry actions done (log 4), until the step of the next one; while
nothing is answered, an operation in progress that goes on keeps them, but for a transition with no transaction (log 3).
That a write not answered leaves the codec as it was is the model's choice (log 37). So is that `TMP` still holds the
byte read after the write of an RMW (log 34). -/
def Obligations.OneTransactionAStep : Prop :=
  ∀ s t : State, step s = .next t → t.cfg = s.cfg ∧
    (t.trace = s.trace ∨ (rstHigh s = false ∧
      ∃ r x, nextRequest (intake s) = some r ∧ entryOf s.cfg r x ∧ t.trace = s.trace ++ [x])) ∧
    (t.trace ≠ s.trace → t.busy = true → let w := entry (settle s)
      t.st = w.st ∧ t.idx = w.idx ∧ t.tmp = w.tmp ∧ t.pollCnt = w.pollCnt ∧ t.due ≠ none) ∧
    (t.trace = s.trace → rstHigh s = false → s.busy = true → t.busy = true → nextRequest s ≠ none → t = intake s)

/-- R116, which the spec derives from R111 to R113: every transaction on the trace has the device address and, if a
write, at least one payload byte; every step keeps it so. -/
def Obligations.TraceWellFramed : Prop :=
  ∀ s t : State, (∀ x ∈ s.trace, wellFramed s.cfg x = true) → step s = .next t →
    ∀ x ∈ t.trace, wellFramed t.cfg x = true

/-- R62, R212, R216, R218: a transaction that returns `Fail` ends the operation in the same step with `BusError` and one
response; the failing transaction is the last of the operation. That the end comes in the step of the transaction is the
model's choice (log 3). -/
def Obligations.FailureEndsOperation : Prop :=
  ∀ s t : State, step s = .next t → ∀ x, t.trace = s.trace ++ [x] →
    (x.isFail = true ↔ t.busy = false ∧ t.errKind = .err .busError) ∧
    (x.isFail = true → t.st = (settle s).st ∧ t.responses.length = s.responses.length + 1)

/-- R23, R92, R190: a step produces at most one response, exactly when the operation in progress, or the command
accepted in this step, ends; it is the response word of the flags after the step. In which step an operation ends, and
that an acceptance takes a step of its own, is the model's choice (log 3). -/
def Obligations.OneResponseAnOperation : Prop :=
  ∀ s t : State, step s = .next t → rstHigh s = false →
    (t.responses = s.responses ∧ (s.busy = true → t.busy = true) ∧
      (s.busy = false → s.cmdIn ≠ [] → t.busy = true)) ∨
    (t.responses = s.responses ++ [t.rspWord] ∧ t.busy = false ∧ (s.busy = true ∨ s.cmdIn ≠ []))

/-- R22, R24, R192, R229: only the START operation, its acceptance and reset write `ST` and `FAILED`. -/
def Obligations.StAndFailedWrittenByStartOnly : Prop :=
  ∀ s t : State, step s = .next t → rstHigh s = false → s.inStart = false →
    (∀ w rest, s.busy = false → s.cmdIn = w :: rest → w &&& 0xF70000000000000000#72 ≠ 0#72) →
    t.st = s.st ∧ t.failed = s.failed

/-- R172, which the spec derives from R160 to R167: acceptance of a START puts the trace on plan; each step of it keeps
the trace the one R172 prescribes for the `ST` and `IDX` that the writes still due give (R14), or ends it: with `OK` and
the whole trace, or with an error at the transaction that failed, at the `POLL_MAX`-th not-locked read, or before
segment 2 or 5. That an error is raised in the step of the transaction it follows, and a `BoardError` in a step of its
own, is the model's choice (log 3). -/
def Obligations.BringUpFollowsPlan : Prop :=
  (∀ (s : State) (l r : F32) (m : Bool), s.cfg.wellFormed = true → s.busy = false →
    ∃ t, exec (.start l r m) s = .next t ∧ t.OnPlan s.trace) ∧
  ∀ (base : List TraceEntry) (s t : State), s.Inv → s.inStart = true → (settle s).OnPlan base → rstHigh s = false →
    step s = .next t →
    (t.inStart = true ∧ (settle t).OnPlan base) ∨
    (t.busy = false ∧ t.errKind = .ok ∧ t.st = .ready ∧ ∃ polls b reads, ReadsOk s.cfg polls b reads ∧
      t.trace = base ++ bringUpTrace s.cfg polls b reads 0 .ready) ∨
    (t.busy = false ∧ t.failed = true ∧ t.st = (settle s).st ∧
      ((t.errKind = .err .busError ∧ ∃ x, x.isFail = true ∧ t.trace = s.trace ++ [x]) ∨
       (t.errKind = .err .boardError ∧ t.trace = s.trace ∧ (settle s).pos = 0 ∧
         (t.st = .clockSourceDefault ∨ t.st = .clockSourcePll)) ∨
       (t.errKind = .err .pllLockTimeout ∧ t.st = .pllConfiguring ∧ (settle s).pos.toNat + 1 = s.cfg.pollMax ∧
         ∃ b, s.cfg.lockTest b = false ∧
           t.trace = s.trace ++ [.read s.cfg.devAddr s.cfg.lockAddr (some b)])))

/-- R258: when the transport answers, no stimulus is pending and the configuration is well formed, an operation in
progress ends within the bound that its lists and `POLL_MAX` give. What counts as a step, with the end of an operation
in that of its last transaction, is the model's choice (log 3). -/
def Obligations.OperationEnds : Prop :=
  ∀ s : State, s.cfg.wellFormed = true → s.Inv → s.busy = true → s.env.stimuli = [] →
    s.env.answersFor (settle s).stepsLeft →
    ∃ n ≤ (settle s).stepsLeft, ∃ t, Host.Core.run core n s = .next t ∧ t.busy = false

/-- R69, U15: while the transaction in flight is never answered the block stays busy for ever: no further entry on the
trace, no response, no command accepted, nothing of the block changed. That nothing of the codec changes either, by a
write that is not answered, is the model's choice (log 37). -/
def Obligations.UnansweredTransactionWaits : Prop :=
  ∀ (s : State) (r : BusReq) (n : ℕ), s.cfg.wellFormed = true → s.env.stimuli = [] → s.env.transport = .script [] →
    nextRequest s = some r → Host.Core.run core n s = .next s ∧ s.busy = true

/-- R60 item 4, R64, R39: what other agents do lands between two transactions of the block and reaches the codec only:
the stimulus of a step changes nothing of the block, and the step is the block's action on the state that leaves, the
writes still due done (R14; log 3). A client's one-byte write sets its register; the codec's own reset makes every
register unknown (U18). The model's choices in it: the events of a step come from a list and happen before the block's
action in it (log 9), `rst` in the same step after them (log 10); a client's write is learned as the block's own are
(log 11, log 33; under the mock log 31). A word offered in a step with `rst` stays (log 41). -/
def Obligations.OtherAgentsReachCodecOnly : Prop :=
  (∀ (s : State) (x : Stimulus) (rest : List Stimulus), s.cfg.wellFormed = true → s.env.stimuli = x :: rest →
    let v := intake s
    let u := settle v
    v.env = ({ s.env with stimuli := rest }).happen s.cfg x.events ∧ u.env = v.env ∧
    (x.rst = true → step s = .next (applyRst v)) ∧
    (x.rst = false →
      (∀ w more i, s.busy = false → s.cmdIn = w :: more → decode (.cmd w) = .ok i →
        step s = exec i { u with cmdIn := more }) ∧
      (∀ w more er, s.busy = false → s.cmdIn = w :: more → decode (.cmd w) = .error er →
        step s = .next (acceptBadWord w { u with cmdIn := more })) ∧
      (∀ i, s.busy = true → s.op = 0#3 → decode (.st u.st.code) = .ok i → step s = landOutcome v u (exec i u)) ∧
      (∀ i, s.busy = true → s.op ≠ 0#3 → decode (.cmd (cmdWord 0 s.mute s.op s.leftDb s.rightDb)) = .ok i →
        step s = landOutcome v u (exec i u)) ∧
      (s.busy = false → s.cmdIn = [] → step s = .next u))) ∧
  (∀ s : State, ∃ e, intake s = { s with env := e } ∧ e.transport = s.env.transport ∧
    e.stimuli = s.env.stimuli.tail) ∧
  (∀ (s : State) (a : Addr) (v : Byte) (b : Bool) (rest : List Stimulus),
    s.env.stimuli = ⟨b, [.clientWrite a [v]]⟩ :: rest → s.env.isMock = true ∨ s.env.codecKnown = true →
    (intake s).env.peek a.toNat = some v ∧ ∀ x, x ≠ a.toNat → (intake s).env.peek x = s.env.peek x) ∧
  (∀ (s : State) (b : Bool) (rest : List Stimulus), s.env.isMock = false →
    s.env.stimuli = ⟨b, [.codecReset]⟩ :: rest → ∀ x, (intake s).env.peek x = none)

end Statements
end

