-- ==== Sys2Proof/Laws/Encoding.lean ====
section
/-! SUPPORT. The frame of a write (R80), and the parsing of it. -/

namespace Sys2Proof.Machine

@[simp] theorem frameAddr_encodeFrame (a : Addr) (p : List Byte) : frameAddr (encodeFrame a p) = a := by
  simp only [frameAddr, encodeFrame]
  apply BitVec.eq_of_getLsbD_eq
  intro i hi
  simp only [BitVec.getLsbD_append, BitVec.getLsbD_extractLsb']
  split
  · simp_all
  · have : i - 8 < 8 := by omega
    have e : 8 + (i - 8) = i := by omega
    simp [this, e]

@[simp] theorem framePayload_encodeFrame (a : Addr) (p : List Byte) : framePayload (encodeFrame a p) = p := rfl

@[simp] theorem length_encodeFrame (a : Addr) (p : List Byte) : (encodeFrame a p).length = p.length + 2 := rfl

@[simp] theorem code_ofCode (t : SeqState) : SeqState.ofCode t.code = some t := by cases t <;> rfl

@[simp] theorem decode_code (t : SeqState) : decode (.st t.code) = .ok (match t with
    | .reset => .t1 | .clockSourceDefault => .t2 | .pllConfiguring => .t3 | .pllLocked => .t4
    | .clockSourcePll => .t5 | .boardConfiguring => .t6 | .ready => .ready) := by cases t <;> rfl

end Sys2Proof.Machine
end

