-- ==== Sys2Proof/Laws/Memory.lean ====
section
/-! SUPPORT. The codec register map: reading after a write, and the canonical form every operation keeps. -/

namespace Sys2Proof.Machine

@[simp] theorem Memory.read_nil (a : Nat) : Memory.read [] a = none := rfl

theorem Memory.read_write_same (m : Memory) (a : Nat) (v : Byte) : (Memory.write m a v).read a = some v := by
  induction m with
  | nil => simp [Memory.write, Memory.read]
  | cons c m ih =>
    unfold Memory.write
    split
    · simp [Memory.read]
    · split
      · simp [Memory.read]
      · rename_i h1 h2
        have : c.1 ≠ a := fun h => h2 h.symm
        simp [Memory.read, this, ih]

theorem Memory.read_write_other (m : Memory) (a b : Nat) (v : Byte) (h : b ≠ a) :
    (Memory.write m a v).read b = m.read b := by
  induction m with
  | nil => simp [Memory.write, Memory.read, Ne.symm h]
  | cons c m ih =>
    unfold Memory.write
    split
    · simp [Memory.read, Ne.symm h]
    · split
      · rename_i h2
        have hc : c.1 ≠ b := by omega
        simp [Memory.read, Ne.symm h, hc]
      · simp [Memory.read, ih]

theorem Memory.read_erase_same (m : Memory) (a : Nat) : (m.erase a).read a = none := by
  induction m with
  | nil => rfl
  | cons c m ih =>
    by_cases h : c.1 = a
    · have : Memory.erase (c :: m) a = Memory.erase m a := by simp [Memory.erase, h]
      rw [this, ih]
    · have : Memory.erase (c :: m) a = c :: Memory.erase m a := by simp [Memory.erase, h]
      rw [this, Memory.read, if_neg h, ih]

theorem Memory.read_erase_other (m : Memory) (a b : Nat) (hb : b ≠ a) : (m.erase a).read b = m.read b := by
  induction m with
  | nil => rfl
  | cons c m ih =>
    by_cases h : c.1 = a
    · have : Memory.erase (c :: m) a = Memory.erase m a := by simp [Memory.erase, h]
      have hc : c.1 ≠ b := by omega
      rw [this, ih, Memory.read, if_neg hc]
    · have : Memory.erase (c :: m) a = c :: Memory.erase m a := by simp [Memory.erase, h]
      rw [this, Memory.read, Memory.read, ih]

theorem addr_succ (a : Addr) (i : Nat) : a + 1 + BitVec.ofNat 16 i = a + BitVec.ofNat 16 (i + 1) := by
  apply BitVec.eq_of_toNat_eq
  simp
  omega

theorem Memory.read_eraseFrom_other (n : Nat) : ∀ (m : Memory) (a : Addr) (b : Nat),
    (∀ i < n, b ≠ (a + BitVec.ofNat 16 i).toNat) → (m.eraseFrom a n).read b = m.read b := by
  induction n with
  | zero => intros; rfl
  | succ n ih =>
    intro m a b h
    rw [Memory.eraseFrom, ih, Memory.read_erase_other]
    · simpa using h 0 (by omega)
    · intro i hi
      have := h (i + 1) (by omega)
      rw [addr_succ]
      exact this

/-- An address the write touches is unknown after it, whatever the later ones do. -/
theorem Memory.read_eraseFrom_none (n : Nat) : ∀ (m : Memory) (a : Addr) (b : Nat),
    m.read b = none → (m.eraseFrom a n).read b = none := by
  induction n with
  | zero => intro m a b h; exact h
  | succ n ih =>
    intro m a b h
    rw [Memory.eraseFrom]
    refine ih _ _ _ ?_
    by_cases hb : b = a.toNat
    · rw [hb, Memory.read_erase_same]
    · rw [Memory.read_erase_other _ _ _ hb, h]

theorem Memory.read_eraseFrom_covered (n : Nat) : ∀ (m : Memory) (a : Addr) (i : Nat), i < n →
    (m.eraseFrom a n).read (a + BitVec.ofNat 16 i).toNat = none := by
  induction n with
  | zero => intro m a i h; omega
  | succ n ih =>
    intro m a i h
    rw [Memory.eraseFrom]
    cases i with
    | zero => exact Memory.read_eraseFrom_none _ _ _ _ (by simpa using Memory.read_erase_same m a.toNat)
    | succ i =>
      rw [← addr_succ]
      exact ih _ _ _ (by omega)

/-! ### The canonical form -/

theorem Memory.wf_iff (m : Memory) :
    m.wf = true ↔ m.Pairwise (fun x y => x.1 < y.1) ∧ ∀ c ∈ m, c.1 < 2 ^ 16 := by
  simp [Memory.wf]

theorem Memory.wf_nil : Memory.wf [] = true := rfl

theorem Memory.mem_write (m : Memory) (a : Nat) (v : Byte) (c : Host.Cell) (h : c ∈ Memory.write m a v) :
    c = (a, v) ∨ c ∈ m := by
  induction m with
  | nil => simpa [Memory.write] using h
  | cons d m ih =>
    unfold Memory.write at h
    split at h
    · simpa using h
    · split at h
      · rcases List.mem_cons.mp h with h | h
        · exact .inl h
        · exact .inr (List.mem_cons_of_mem _ h)
      · rcases List.mem_cons.mp h with h | h
        · exact .inr (by simp [h])
        · rcases ih h with h | h
          · exact .inl h
          · exact .inr (List.mem_cons_of_mem _ h)

theorem Memory.wf_write (m : Memory) (a : Nat) (v : Byte) (ha : a < 2 ^ 16) (h : m.wf = true) :
    (m.write a v).wf = true := by
  rw [Memory.wf_iff] at h ⊢
  refine ⟨?_, ?_⟩
  · obtain ⟨hp, -⟩ := h
    induction m with
    | nil => simp [Memory.write]
    | cons d m ih =>
      obtain ⟨hd, hm⟩ := List.pairwise_cons.mp hp
      unfold Memory.write
      split
      · refine List.pairwise_cons.mpr ⟨?_, hp⟩
        intro x hx
        rcases List.mem_cons.mp hx with rfl | hx
        · assumption
        · have := hd x hx
          simp only at *
          omega
      · split
        · rename_i h1 h2
          refine List.pairwise_cons.mpr ⟨?_, hm⟩
          intro x hx
          have := hd x hx
          simp only at *
          omega
        · rename_i h1 h2
          refine List.pairwise_cons.mpr ⟨?_, ih hm⟩
          intro x hx
          rcases Memory.mem_write m a v x hx with rfl | hx
          · simp only
            omega
          · exact hd x hx
  · intro c hc
    rcases Memory.mem_write m a v c hc with rfl | hc
    · exact ha
    · exact h.2 c hc

theorem Memory.wf_erase (m : Memory) (a : Nat) (h : m.wf = true) : (m.erase a).wf = true := by
  rw [Memory.wf_iff] at h ⊢
  exact ⟨h.1.filter _, fun c hc => h.2 c (List.mem_filter.mp hc).1⟩

theorem Memory.wf_eraseFrom (n : Nat) : ∀ (m : Memory) (a : Addr), m.wf = true → (m.eraseFrom a n).wf = true := by
  induction n with
  | zero => intro m a h; exact h
  | succ n ih => intro m a h; exact ih _ _ (Memory.wf_erase _ _ h)

/-! ### What one operation of the environment does to the registers -/

@[simp] theorem Env.noteWrite_regs (cfg : Config) (b : Bool) (a : Addr) (p : List Byte) (e : Env) :
    (e.noteWrite cfg b a p).regs = e.regs := rfl

@[simp] theorem Env.noteWrite_stimuli (cfg : Config) (b : Bool) (a : Addr) (p : List Byte) (e : Env) :
    (e.noteWrite cfg b a p).stimuli = e.stimuli := rfl

@[simp] theorem Env.noteWrite_transport (cfg : Config) (b : Bool) (a : Addr) (p : List Byte) (e : Env) :
    (e.noteWrite cfg b a p).transport = e.transport := rfl

@[simp] theorem Env.noteWrite_lockSeen (cfg : Config) (b : Bool) (a : Addr) (p : List Byte) (e : Env) :
    (e.noteWrite cfg b a p).lockSeen = (e.lockSeen && !b) := rfl

@[simp] theorem Env.noteRead_regs (cfg : Config) (a : Addr) (g : Option Byte) (e : Env) :
    (e.noteRead cfg a g).regs = e.regs := by cases g <;> rfl

@[simp] theorem Env.noteRead_stimuli (cfg : Config) (a : Addr) (g : Option Byte) (e : Env) :
    (e.noteRead cfg a g).stimuli = e.stimuli := by cases g <;> rfl

@[simp] theorem Env.noteRead_transport (cfg : Config) (a : Addr) (g : Option Byte) (e : Env) :
    (e.noteRead cfg a g).transport = e.transport := by cases g <;> rfl

@[simp] theorem Env.noteRead_clkHazard (cfg : Config) (a : Addr) (g : Option Byte) (e : Env) :
    (e.noteRead cfg a g).clkHazard = e.clkHazard := by cases g <;> rfl

@[simp] theorem Env.noteWrite_isMock (cfg : Config) (b : Bool) (a : Addr) (p : List Byte) (e : Env) :
    (e.noteWrite cfg b a p).isMock = e.isMock := rfl

@[simp] theorem Env.noteRead_isMock (cfg : Config) (a : Addr) (g : Option Byte) (e : Env) :
    (e.noteRead cfg a g).isMock = e.isMock := by cases g <;> rfl

theorem Env.isMock_congr {e e' : Env} (h : e'.transport = e.transport) : e'.isMock = e.isMock := by
  simp only [Env.isMock, h]

theorem Env.wf_congr {e e' : Env} (hr : e'.regs = e.regs) (hm : e'.isMock = e.isMock) : e'.wf = e.wf := by
  simp only [Env.wf, hr, hm]

theorem Env.peek_congr {e e' : Env} (hr : e'.regs = e.regs) (hm : e'.isMock = e.isMock) (a : Nat) :
    e'.peek a = e.peek a := by
  simp only [Env.peek, hr, hm]

@[simp] theorem Env.noteWrite_wf (cfg : Config) (b : Bool) (a : Addr) (p : List Byte) (e : Env) :
    (e.noteWrite cfg b a p).wf = e.wf := rfl

@[simp] theorem Env.noteRead_wf (cfg : Config) (a : Addr) (g : Option Byte) (e : Env) :
    (e.noteRead cfg a g).wf = e.wf := by cases g <;> rfl

@[simp] theorem Env.noteWrite_peek (cfg : Config) (b : Bool) (a : Addr) (p : List Byte) (e : Env) (x : Nat) :
    (e.noteWrite cfg b a p).peek x = e.peek x := rfl

@[simp] theorem Env.noteRead_peek (cfg : Config) (a : Addr) (g : Option Byte) (e : Env) (x : Nat) :
    (e.noteRead cfg a g).peek x = e.peek x := by cases g <;> rfl

theorem Env.wf_iff (e : Env) :
    e.wf = true ↔ e.regs.wf = true ∧ (e.isMock = true → ∀ c ∈ e.regs, c.2 ≠ 0#8) := by
  simp only [Env.wf, Bool.and_eq_true, Bool.or_eq_true, Bool.not_eq_true', List.all_eq_true, bne_iff_ne]
  constructor
  · rintro ⟨h, h' | h'⟩
    · exact ⟨h, fun hm => by simp [h'] at hm⟩
    · exact ⟨h, fun _ => h'⟩
  · rintro ⟨h, h'⟩
    cases hm : e.isMock with
    | false => exact ⟨h, .inl rfl⟩
    | true => exact ⟨h, .inr (h' hm)⟩

@[simp] theorem Env.learn_isMock (a : Addr) (v : Byte) (e : Env) : (e.learn a v).isMock = e.isMock := by
  unfold Env.learn
  split
  · rfl
  · split <;> rfl

@[simp] theorem Env.forget_isMock (a : Addr) (n : Nat) (e : Env) : (e.forget a n).isMock = e.isMock := by
  unfold Env.forget
  split <;> rfl

@[simp] theorem Env.store_isMock (a : Addr) (p : List Byte) (e : Env) : (e.store a p).isMock = e.isMock := by
  unfold Env.store
  split <;> simp

theorem Env.learn_wf (a : Addr) (v : Byte) (e : Env) (h : e.wf = true) : (e.learn a v).wf = true := by
  rw [Env.wf_iff] at h ⊢
  obtain ⟨hw, hz⟩ := h
  refine ⟨?_, ?_⟩
  · unfold Env.learn
    split
    · simp only
      split
      · exact Memory.wf_erase _ _ hw
      · exact Memory.wf_write _ _ _ a.isLt hw
    · split
      · exact Memory.wf_write _ _ _ a.isLt hw
      · exact hw
  · rw [Env.learn_isMock]
    intro hm c hc
    simp only [Env.learn, hm, if_true] at hc
    split at hc
    · exact hz hm c (List.mem_filter.mp hc).1
    · rename_i hv
      rcases Memory.mem_write _ _ _ _ hc with rfl | hc
      · exact hv
      · exact hz hm c hc

theorem Env.forget_wf (a : Addr) (n : Nat) (e : Env) (h : e.wf = true) : (e.forget a n).wf = true := by
  rw [Env.wf_iff] at h ⊢
  rw [Env.forget_isMock]
  cases hm : e.isMock with
  | true => simpa [Env.forget, hm] using h
  | false =>
    refine ⟨?_, fun h' => by cases h'⟩
    simpa [Env.forget, hm] using Memory.wf_eraseFrom _ _ _ h.1

theorem Env.store_wf (a : Addr) (p : List Byte) (e : Env) (h : e.wf = true) : (e.store a p).wf = true := by
  unfold Env.store
  split
  · exact Env.learn_wf _ _ _ h
  · exact Env.forget_wf _ _ _ h

theorem Env.event_wf (cfg : Config) (ev : EnvEvent) (e : Env) (h : e.wf = true) : (e.event cfg ev).wf = true := by
  cases ev with
  | clientWrite a p => exact Env.store_wf _ _ _ (by simpa using h)
  | codecChange a v =>
    cases v with
    | none =>
      simp only [Env.event]
      split
      · exact Env.learn_wf _ _ _ h
      · exact Env.forget_wf _ _ _ h
    | some v => exact Env.learn_wf _ _ _ h
  | codecReset =>
    simp only [Env.event]
    split
    · exact h
    · rw [Env.wf_iff]; exact ⟨Memory.wf_nil, fun _ c hc => by cases hc⟩

theorem Env.happen_wf (cfg : Config) (evs : List EnvEvent) : ∀ e : Env, e.wf = true → (e.happen cfg evs).wf = true := by
  induction evs with
  | nil => intro e h; exact h
  | cons ev evs ih => intro e h; exact ih _ (Env.event_wf cfg ev e h)

/-- What a one-byte write leaves in its register. -/
theorem Env.learn_peek_same (a : Addr) (v : Byte) (e : Env) (h : e.isMock = true ∨ e.codecKnown = true) :
    (e.learn a v).peek a.toNat = some v := by
  cases hm : e.isMock with
  | true =>
    by_cases hv : v = 0#8
    · have hm' := hm
      simp only [Env.isMock] at hm'
      simp [Env.peek, hm', Env.learn, hv, Memory.read_erase_same, Env.isMock]
    · simp [Env.peek, Env.learn, hm, hv, Memory.read_write_same]
  | false =>
    have hk : e.codecKnown = true := h.resolve_left (by simp [hm])
    simp [Env.peek, Env.learn, hm, hk, Memory.read_write_same]

/-- A one-byte write touches no other register. -/
theorem Env.learn_peek_other (a : Addr) (v : Byte) (e : Env) (b : Nat) (h : b ≠ a.toNat) :
    (e.learn a v).peek b = e.peek b := by
  simp only [Env.peek, Env.learn_isMock]
  have : (e.learn a v).regs.read b = e.regs.read b := by
    unfold Env.learn
    split
    · simp only
      split
      · exact Memory.read_erase_other _ _ _ h
      · exact Memory.read_write_other _ _ _ _ h
    · split
      · exact Memory.read_write_other _ _ _ _ h
      · rfl
  rw [this]

/-- Forgetting touches no register outside the bytes it covers (R67). -/
theorem Env.forget_frame (a : Addr) (n : Nat) (e : Env) (b : Nat)
    (h : ∀ i < n, b ≠ (a + BitVec.ofNat 16 i).toNat) : (e.forget a n).peek b = e.peek b := by
  simp only [Env.peek, Env.forget_isMock]
  have : (e.forget a n).regs.read b = e.regs.read b := by
    unfold Env.forget
    split
    · rfl
    · exact Memory.read_eraseFrom_other _ _ _ _ h
  rw [this]

/-- A store touches no register outside the bytes it covers (R57, R68). -/
theorem Env.store_frame (a : Addr) (p : List Byte) (e : Env) (b : Nat)
    (h : ∀ i < p.length, b ≠ (a + BitVec.ofNat 16 i).toNat) : (e.store a p).peek b = e.peek b := by
  unfold Env.store
  split
  · exact Env.learn_peek_other _ _ _ _ (by simpa using h 0 (by simp))
  · exact Env.forget_frame _ _ _ _ h

end Sys2Proof.Machine
end

