-- ==== Sys2Proof/Laws/Environment.lean ====
section
/-! SUPPORT. Everything an answered transaction can do to the environment: one lemma for a write, one for a read. -/

namespace Sys2Proof.Machine

/-- What every bus transaction leaves alone in the environment. -/
structure Env.SameMarks (e e' : Env) : Prop where
  isMock : e'.isMock = e.isMock
  stimuli : e'.stimuli = e.stimuli
  codecFresh : e'.codecFresh = e.codecFresh
  codecKnown : e'.codecKnown = e.codecKnown
  lockSeen : e'.lockSeen = e.lockSeen
  clkHazard : e'.clkHazard = e.clkHazard

theorem Env.SameMarks.refl (e : Env) : e.SameMarks e := ⟨rfl, rfl, rfl, rfl, rfl, rfl⟩

theorem Env.SameMarks.trans {e e' e'' : Env} (h : e.SameMarks e') (h' : e'.SameMarks e'') : e.SameMarks e'' :=
  ⟨h'.1.trans h.1, h'.2.trans h.2, h'.3.trans h.3, h'.4.trans h.4, h'.5.trans h.5, h'.6.trans h.6⟩

theorem Env.learn_same (a : Addr) (v : Byte) (e : Env) : e.SameMarks (e.learn a v) := by
  refine ⟨Env.learn_isMock a v e, ?_, ?_, ?_, ?_, ?_⟩ <;> unfold Env.learn <;> split <;> first | rfl | (split <;> rfl)

theorem Env.forget_same (a : Addr) (n : Nat) (e : Env) : e.SameMarks (e.forget a n) := by
  unfold Env.forget
  split <;> exact ⟨rfl, rfl, rfl, rfl, rfl, rfl⟩

theorem Env.store_same (a : Addr) (p : List Byte) (e : Env) : e.SameMarks (e.store a p) := by
  unfold Env.store
  split
  · exact Env.learn_same _ _ _
  · exact Env.forget_same _ _ _

theorem Env.popLock_same (l a : Addr) (e : Env) : e.SameMarks (e.popLock l a) := by
  unfold Env.popLock
  split
  · exact Env.SameMarks.refl e
  · rename_i h
    split
    · exact ⟨by simp [Env.isMock, h], rfl, rfl, rfl, rfl, rfl⟩
    · exact Env.SameMarks.refl e

@[simp] theorem Env.popLock_regs (l a : Addr) (e : Env) : (e.popLock l a).regs = e.regs := by
  unfold Env.popLock
  split
  · rfl
  · split <;> rfl

theorem Env.draw_same (e : Env) : e.SameMarks e.draw.2 := ⟨rfl, rfl, rfl, rfl, rfl, rfl⟩

@[simp] theorem Env.draw_regs (e : Env) : e.draw.2.regs = e.regs := rfl

theorem Env.heldByte_same (a : Addr) (e : Env) : e.SameMarks (e.heldByte a).2 := by
  unfold Env.heldByte
  split
  · exact Env.SameMarks.refl e
  · exact Env.draw_same e

@[simp] theorem Env.heldByte_regs (a : Addr) (e : Env) : (e.heldByte a).2.regs = e.regs := by
  unfold Env.heldByte
  split <;> rfl

/-- A known register answers with what it holds. -/
theorem Env.heldByte_known (a : Addr) (e : Env) (b : Byte) (h : e.peek a.toNat = some b) :
    e.heldByte a = (b, e) := by
  unfold Env.heldByte
  rw [h]

/-- An unknown register answers with a draw (R39). -/
theorem Env.heldByte_unknown (a : Addr) (e : Env) (h : e.peek a.toNat = none) : e.heldByte a = e.draw := by
  unfold Env.heldByte
  rw [h]

/-- The next answer of a script leaves the script. -/
theorem Env.script_same (e : Env) (l l' : List BusAnswer) (h : e.transport = .script l) :
    e.SameMarks { e with transport := .script l' } :=
  ⟨by simp [Env.isMock, h], rfl, rfl, rfl, rfl, rfl⟩

/-- An answered write leaves the marks alone, keeps the canonical form, and touches only the registers it covers. -/
theorem Env.answerWrite_spec (ord : Nat) (bytes : List Byte) (e e' : Env) (ok : Bool)
    (h : e.answerWrite ord bytes = some (ok, e')) :
    e.SameMarks e' ∧ (e.wf = true → e'.wf = true) ∧
      ∀ b, (∀ i < (framePayload bytes).length, b ≠ (frameAddr bytes + BitVec.ofNat 16 i).toNat) →
        e'.peek b = e.peek b := by
  unfold Env.answerWrite at h
  simp only at h
  split at h
  · cases h
  · rename_i l ht
    cases h
    have hs := Env.script_same e _ l ht
    refine ⟨hs.trans (Env.forget_same _ _ _), fun hw => Env.forget_wf _ _ _ ?_, fun b hb => ?_⟩
    · exact (Env.wf_congr (e := e) (e' := { e with transport := .script l }) rfl hs.isMock).trans hw
    · exact (Env.forget_frame _ _ _ _ hb).trans 
        (Env.peek_congr (e := e) (e' := { e with transport := .script l }) rfl hs.isMock b)
  · rename_i l _ ht
    cases h
    have hs := Env.script_same e _ l ht
    refine ⟨hs.trans (Env.store_same _ _ _), fun hw => Env.store_wf _ _ _ ?_, fun b hb => ?_⟩
    · exact (Env.wf_congr (e := e) (e' := { e with transport := .script l }) rfl hs.isMock).trans hw
    · exact (Env.store_frame _ _ _ _ hb).trans 
        (Env.peek_congr (e := e) (e' := { e with transport := .script l }) rfl hs.isMock b)
  · split at h
    · cases h
      exact ⟨Env.SameMarks.refl e, id, fun _ _ => rfl⟩
    · cases h
      exact ⟨Env.store_same _ _ _, fun hw => Env.store_wf _ _ _ hw, fun b hb => Env.store_frame _ _ _ _ hb⟩

/-- An answered read leaves the marks and every register alone (R58). -/
theorem Env.answerRead_spec (lockAddr : Addr) (ord : Nat) (a : Addr) (e e' : Env) (got : Option Byte)
    (h : e.answerRead lockAddr ord a = some (got, e')) : e.SameMarks e' ∧ e'.regs = e.regs := by
  unfold Env.answerRead at h
  simp only at h
  split at h
  · cases h
  · rename_i ht
    cases h
    exact ⟨Env.script_same e _ _ ht, rfl⟩
  · rename_i ht
    cases h
    exact ⟨Env.script_same e _ _ ht, rfl⟩
  · rename_i ht
    cases h
    exact ⟨(Env.script_same e _ _ ht).trans (Env.heldByte_same _ _), by simp⟩
  · split at h
    · cases h
      exact ⟨Env.popLock_same _ _ e, by simp⟩
    · split at h
      · split at h
        · cases h
          exact ⟨(Env.popLock_same _ _ e).trans (Env.draw_same _), by simp⟩
        · cases h
          exact ⟨Env.popLock_same _ _ e, by simp⟩
      · cases h
        exact ⟨(Env.popLock_same _ _ e).trans (Env.heldByte_same _ _), by simp⟩

theorem Env.answerRead_wf (lockAddr : Addr) (ord : Nat) (a : Addr) (e e' : Env) (got : Option Byte)
    (h : e.answerRead lockAddr ord a = some (got, e')) : e'.wf = e.wf := by
  obtain ⟨hs, hr⟩ := Env.answerRead_spec _ _ _ _ _ _ h
  exact Env.wf_congr hr hs.isMock

/-- The mock bus answers every write (R68). -/
theorem Env.answerWrite_mock (ord : Nat) (bytes : List Byte) (e : Env) (h : e.isMock = true) :
    ∃ r, e.answerWrite ord bytes = some r := by
  unfold Env.isMock at h
  split at h
  · cases h
  · rename_i heq
    simp only [Env.answerWrite, heq]
    split <;> exact ⟨_, rfl⟩

end Sys2Proof.Machine
end

