-- ==== Sys2Proof/Laws/State.lean ====
section
/-! SUPPORT. One lemma per field per named update of the state, so that no proof unfolds a record update. -/

namespace Sys2Proof.Machine

variable (s : State)


/-! ### `State.finish` -/

@[simp] theorem State.finish_cfg (k : Status) (i : BitVec 16) : (State.finish k i s).cfg = s.cfg := rfl
@[simp] theorem State.finish_st (k : Status) (i : BitVec 16) : (State.finish k i s).st = s.st := rfl
@[simp] theorem State.finish_busy (k : Status) (i : BitVec 16) : (State.finish k i s).busy = false := rfl
@[simp] theorem State.finish_failed (k : Status) (i : BitVec 16) : (State.finish k i s).failed = s.failed := rfl
@[simp] theorem State.finish_errKind (k : Status) (i : BitVec 16) : (State.finish k i s).errKind = k := rfl
@[simp] theorem State.finish_errIndex (k : Status) (i : BitVec 16) : (State.finish k i s).errIndex = i := rfl
@[simp] theorem State.finish_op (k : Status) (i : BitVec 16) : (State.finish k i s).op = s.op := rfl
@[simp] theorem State.finish_mute (k : Status) (i : BitVec 16) : (State.finish k i s).mute = s.mute := rfl
@[simp] theorem State.finish_leftDb (k : Status) (i : BitVec 16) : (State.finish k i s).leftDb = s.leftDb := rfl
@[simp] theorem State.finish_rightDb (k : Status) (i : BitVec 16) : (State.finish k i s).rightDb = s.rightDb := rfl
@[simp] theorem State.finish_ch (k : Status) (i : BitVec 16) : (State.finish k i s).ch = s.ch := rfl
@[simp] theorem State.finish_lcode (k : Status) (i : BitVec 16) : (State.finish k i s).lcode = s.lcode := rfl
@[simp] theorem State.finish_rcode (k : Status) (i : BitVec 16) : (State.finish k i s).rcode = s.rcode := rfl
@[simp] theorem State.finish_tmp (k : Status) (i : BitVec 16) : (State.finish k i s).tmp = s.tmp := rfl
@[simp] theorem State.finish_pollCnt (k : Status) (i : BitVec 16) : (State.finish k i s).pollCnt = s.pollCnt := rfl
@[simp] theorem State.finish_idx (k : Status) (i : BitVec 16) : (State.finish k i s).idx = s.idx := rfl
@[simp] theorem State.finish_entered (k : Status) (i : BitVec 16) : (State.finish k i s).entered = s.entered := rfl
@[simp] theorem State.finish_res (k : Status) (i : BitVec 16) : (State.finish k i s).res = s.res := rfl
@[simp] theorem State.finish_due (k : Status) (i : BitVec 16) : (State.finish k i s).due = s.due := rfl
@[simp] theorem State.finish_call (k : Status) (i : BitVec 16) : (State.finish k i s).call = s.call := rfl
@[simp] theorem State.finish_cmdIn (k : Status) (i : BitVec 16) : (State.finish k i s).cmdIn = s.cmdIn := rfl
@[simp] theorem State.finish_responses (k : Status) (i : BitVec 16) : (State.finish k i s).responses = s.responses ++ [State.rspWord { s with errKind := k, errIndex := i, busy := false }] := rfl
@[simp] theorem State.finish_trace (k : Status) (i : BitVec 16) : (State.finish k i s).trace = s.trace := rfl
@[simp] theorem State.finish_env (k : Status) (i : BitVec 16) : (State.finish k i s).env = s.env := rfl

/-! ### `raise` -/

@[simp] theorem raise_cfg (b : Bool) (e : ErrKind) (i : BitVec 16) : (raise b e i s).cfg = s.cfg := rfl
@[simp] theorem raise_st (b : Bool) (e : ErrKind) (i : BitVec 16) : (raise b e i s).st = s.st := rfl
@[simp] theorem raise_busy (b : Bool) (e : ErrKind) (i : BitVec 16) : (raise b e i s).busy = false := rfl
@[simp] theorem raise_failed (b : Bool) (e : ErrKind) (i : BitVec 16) : (raise b e i s).failed = (s.failed || b) := rfl
@[simp] theorem raise_errKind (b : Bool) (e : ErrKind) (i : BitVec 16) : (raise b e i s).errKind = .err e := rfl
@[simp] theorem raise_errIndex (b : Bool) (e : ErrKind) (i : BitVec 16) : (raise b e i s).errIndex = i := rfl
@[simp] theorem raise_op (b : Bool) (e : ErrKind) (i : BitVec 16) : (raise b e i s).op = s.op := rfl
@[simp] theorem raise_mute (b : Bool) (e : ErrKind) (i : BitVec 16) : (raise b e i s).mute = s.mute := rfl
@[simp] theorem raise_leftDb (b : Bool) (e : ErrKind) (i : BitVec 16) : (raise b e i s).leftDb = s.leftDb := rfl
@[simp] theorem raise_rightDb (b : Bool) (e : ErrKind) (i : BitVec 16) : (raise b e i s).rightDb = s.rightDb := rfl
@[simp] theorem raise_ch (b : Bool) (e : ErrKind) (i : BitVec 16) : (raise b e i s).ch = s.ch := rfl
@[simp] theorem raise_lcode (b : Bool) (e : ErrKind) (i : BitVec 16) : (raise b e i s).lcode = s.lcode := rfl
@[simp] theorem raise_rcode (b : Bool) (e : ErrKind) (i : BitVec 16) : (raise b e i s).rcode = s.rcode := rfl
@[simp] theorem raise_tmp (b : Bool) (e : ErrKind) (i : BitVec 16) : (raise b e i s).tmp = s.tmp := rfl
@[simp] theorem raise_pollCnt (b : Bool) (e : ErrKind) (i : BitVec 16) : (raise b e i s).pollCnt = s.pollCnt := rfl
@[simp] theorem raise_idx (b : Bool) (e : ErrKind) (i : BitVec 16) : (raise b e i s).idx = s.idx := rfl
@[simp] theorem raise_entered (b : Bool) (e : ErrKind) (i : BitVec 16) : (raise b e i s).entered = s.entered := rfl
@[simp] theorem raise_res (b : Bool) (e : ErrKind) (i : BitVec 16) : (raise b e i s).res = s.res := rfl
@[simp] theorem raise_due (b : Bool) (e : ErrKind) (i : BitVec 16) : (raise b e i s).due = s.due := rfl
@[simp] theorem raise_call (b : Bool) (e : ErrKind) (i : BitVec 16) : (raise b e i s).call = s.call := rfl
@[simp] theorem raise_cmdIn (b : Bool) (e : ErrKind) (i : BitVec 16) : (raise b e i s).cmdIn = s.cmdIn := rfl
@[simp] theorem raise_responses (b : Bool) (e : ErrKind) (i : BitVec 16) : (raise b e i s).responses = s.responses ++ [State.rspWord { s with errKind := .err e, errIndex := i, busy := false, failed := s.failed || b }] := rfl
@[simp] theorem raise_trace (b : Bool) (e : ErrKind) (i : BitVec 16) : (raise b e i s).trace = s.trace := rfl
@[simp] theorem raise_env (b : Bool) (e : ErrKind) (i : BitVec 16) : (raise b e i s).env = s.env := rfl

/-! ### `ret` -/

@[simp] theorem ret_cfg : (ret s).cfg = s.cfg := rfl
@[simp] theorem ret_st : (ret s).st = s.st := rfl
@[simp] theorem ret_busy : (ret s).busy = false := rfl
@[simp] theorem ret_failed : (ret s).failed = s.failed := rfl
@[simp] theorem ret_errKind : (ret s).errKind = .ok := rfl
@[simp] theorem ret_errIndex : (ret s).errIndex = 0 := rfl
@[simp] theorem ret_op : (ret s).op = s.op := rfl
@[simp] theorem ret_mute : (ret s).mute = s.mute := rfl
@[simp] theorem ret_leftDb : (ret s).leftDb = s.leftDb := rfl
@[simp] theorem ret_rightDb : (ret s).rightDb = s.rightDb := rfl
@[simp] theorem ret_ch : (ret s).ch = s.ch := rfl
@[simp] theorem ret_lcode : (ret s).lcode = s.lcode := rfl
@[simp] theorem ret_rcode : (ret s).rcode = s.rcode := rfl
@[simp] theorem ret_tmp : (ret s).tmp = s.tmp := rfl
@[simp] theorem ret_pollCnt : (ret s).pollCnt = s.pollCnt := rfl
@[simp] theorem ret_idx : (ret s).idx = s.idx := rfl
@[simp] theorem ret_entered : (ret s).entered = s.entered := rfl
@[simp] theorem ret_res : (ret s).res = s.res := rfl
@[simp] theorem ret_due : (ret s).due = s.due := rfl
@[simp] theorem ret_call : (ret s).call = s.call := rfl
@[simp] theorem ret_cmdIn : (ret s).cmdIn = s.cmdIn := rfl
@[simp] theorem ret_responses : (ret s).responses = s.responses ++ [State.rspWord { s with errKind := .ok, errIndex := 0, busy := false }] := rfl
@[simp] theorem ret_trace : (ret s).trace = s.trace := rfl
@[simp] theorem ret_env : (ret s).env = s.env := rfl

/-! ### `State.latch` -/

@[simp] theorem State.latch_cfg (op : BitVec 3) (l r : F32) (m : Bool) : (s.latch op l r m).cfg = s.cfg := rfl
@[simp] theorem State.latch_st (op : BitVec 3) (l r : F32) (m : Bool) : (s.latch op l r m).st = s.st := rfl
@[simp] theorem State.latch_busy (op : BitVec 3) (l r : F32) (m : Bool) : (s.latch op l r m).busy = true := rfl
@[simp] theorem State.latch_failed (op : BitVec 3) (l r : F32) (m : Bool) : (s.latch op l r m).failed = s.failed := rfl
@[simp] theorem State.latch_errKind (op : BitVec 3) (l r : F32) (m : Bool) : (s.latch op l r m).errKind = s.errKind := rfl
@[simp] theorem State.latch_errIndex (op : BitVec 3) (l r : F32) (m : Bool) : (s.latch op l r m).errIndex = s.errIndex := rfl
@[simp] theorem State.latch_op (op : BitVec 3) (l r : F32) (m : Bool) : (s.latch op l r m).op = op := rfl
@[simp] theorem State.latch_mute (op : BitVec 3) (l r : F32) (m : Bool) : (s.latch op l r m).mute = m := rfl
@[simp] theorem State.latch_leftDb (op : BitVec 3) (l r : F32) (m : Bool) : (s.latch op l r m).leftDb = l := rfl
@[simp] theorem State.latch_rightDb (op : BitVec 3) (l r : F32) (m : Bool) : (s.latch op l r m).rightDb = r := rfl
@[simp] theorem State.latch_ch (op : BitVec 3) (l r : F32) (m : Bool) : (s.latch op l r m).ch = s.ch := rfl
@[simp] theorem State.latch_lcode (op : BitVec 3) (l r : F32) (m : Bool) : (s.latch op l r m).lcode = s.lcode := rfl
@[simp] theorem State.latch_rcode (op : BitVec 3) (l r : F32) (m : Bool) : (s.latch op l r m).rcode = s.rcode := rfl
@[simp] theorem State.latch_tmp (op : BitVec 3) (l r : F32) (m : Bool) : (s.latch op l r m).tmp = s.tmp := rfl
@[simp] theorem State.latch_pollCnt (op : BitVec 3) (l r : F32) (m : Bool) : (s.latch op l r m).pollCnt = s.pollCnt := rfl
@[simp] theorem State.latch_idx (op : BitVec 3) (l r : F32) (m : Bool) : (s.latch op l r m).idx = s.idx := rfl
@[simp] theorem State.latch_entered (op : BitVec 3) (l r : F32) (m : Bool) : (s.latch op l r m).entered = s.entered := rfl
@[simp] theorem State.latch_res (op : BitVec 3) (l r : F32) (m : Bool) : (s.latch op l r m).res = s.res := rfl
@[simp] theorem State.latch_due (op : BitVec 3) (l r : F32) (m : Bool) : (s.latch op l r m).due = s.due := rfl
@[simp] theorem State.latch_call (op : BitVec 3) (l r : F32) (m : Bool) : (s.latch op l r m).call = s.call := rfl
@[simp] theorem State.latch_cmdIn (op : BitVec 3) (l r : F32) (m : Bool) : (s.latch op l r m).cmdIn = s.cmdIn := rfl
@[simp] theorem State.latch_responses (op : BitVec 3) (l r : F32) (m : Bool) : (s.latch op l r m).responses = s.responses := rfl
@[simp] theorem State.latch_trace (op : BitVec 3) (l r : F32) (m : Bool) : (s.latch op l r m).trace = s.trace := rfl
@[simp] theorem State.latch_env (op : BitVec 3) (l r : F32) (m : Bool) : (s.latch op l r m).env = s.env := rfl

/-! ### `goto` -/

@[simp] theorem goto_cfg (t : SeqState) : (goto t s).cfg = s.cfg := rfl
@[simp] theorem goto_st (t : SeqState) : (goto t s).st = t := rfl
@[simp] theorem goto_busy (t : SeqState) : (goto t s).busy = s.busy := rfl
@[simp] theorem goto_failed (t : SeqState) : (goto t s).failed = s.failed := rfl
@[simp] theorem goto_errKind (t : SeqState) : (goto t s).errKind = s.errKind := rfl
@[simp] theorem goto_errIndex (t : SeqState) : (goto t s).errIndex = s.errIndex := rfl
@[simp] theorem goto_op (t : SeqState) : (goto t s).op = s.op := rfl
@[simp] theorem goto_mute (t : SeqState) : (goto t s).mute = s.mute := rfl
@[simp] theorem goto_leftDb (t : SeqState) : (goto t s).leftDb = s.leftDb := rfl
@[simp] theorem goto_rightDb (t : SeqState) : (goto t s).rightDb = s.rightDb := rfl
@[simp] theorem goto_ch (t : SeqState) : (goto t s).ch = s.ch := rfl
@[simp] theorem goto_lcode (t : SeqState) : (goto t s).lcode = s.lcode := rfl
@[simp] theorem goto_rcode (t : SeqState) : (goto t s).rcode = s.rcode := rfl
@[simp] theorem goto_tmp (t : SeqState) : (goto t s).tmp = s.tmp := rfl
@[simp] theorem goto_pollCnt (t : SeqState) : (goto t s).pollCnt = s.pollCnt := rfl
@[simp] theorem goto_idx (t : SeqState) : (goto t s).idx = s.idx := rfl
@[simp] theorem goto_entered (t : SeqState) : (goto t s).entered = false := rfl
@[simp] theorem goto_res (t : SeqState) : (goto t s).res = s.res := rfl
@[simp] theorem goto_due (t : SeqState) : (goto t s).due = s.due := rfl
@[simp] theorem goto_call (t : SeqState) : (goto t s).call = s.call := rfl
@[simp] theorem goto_cmdIn (t : SeqState) : (goto t s).cmdIn = s.cmdIn := rfl
@[simp] theorem goto_responses (t : SeqState) : (goto t s).responses = s.responses := rfl
@[simp] theorem goto_trace (t : SeqState) : (goto t s).trace = s.trace := rfl
@[simp] theorem goto_env (t : SeqState) : (goto t s).env = s.env := rfl

/-! ### `enter` -/

@[simp] theorem enter_cfg : (enter s).cfg = s.cfg := by unfold enter; split <;> simp_all
@[simp] theorem enter_st : (enter s).st = s.st := by unfold enter; split <;> simp_all
@[simp] theorem enter_busy : (enter s).busy = s.busy := by unfold enter; split <;> simp_all
@[simp] theorem enter_failed : (enter s).failed = s.failed := by unfold enter; split <;> simp_all
@[simp] theorem enter_errKind : (enter s).errKind = s.errKind := by unfold enter; split <;> simp_all
@[simp] theorem enter_errIndex : (enter s).errIndex = s.errIndex := by unfold enter; split <;> simp_all
@[simp] theorem enter_op : (enter s).op = s.op := by unfold enter; split <;> simp_all
@[simp] theorem enter_mute : (enter s).mute = s.mute := by unfold enter; split <;> simp_all
@[simp] theorem enter_leftDb : (enter s).leftDb = s.leftDb := by unfold enter; split <;> simp_all
@[simp] theorem enter_rightDb : (enter s).rightDb = s.rightDb := by unfold enter; split <;> simp_all
@[simp] theorem enter_ch : (enter s).ch = s.ch := by unfold enter; split <;> simp_all
@[simp] theorem enter_lcode : (enter s).lcode = s.lcode := by unfold enter; split <;> simp_all
@[simp] theorem enter_rcode : (enter s).rcode = s.rcode := by unfold enter; split <;> simp_all
@[simp] theorem enter_tmp : (enter s).tmp = s.tmp := by unfold enter; split <;> simp_all
@[simp] theorem enter_pollCnt : (enter s).pollCnt = s.pollCnt := by unfold enter; split <;> simp_all
@[simp] theorem enter_idx : (enter s).idx = if s.entered then s.idx else 0 := by unfold enter; split <;> simp_all
@[simp] theorem enter_entered : (enter s).entered = true := by unfold enter; split <;> simp_all
@[simp] theorem enter_res : (enter s).res = s.res := by unfold enter; split <;> simp_all
@[simp] theorem enter_due : (enter s).due = s.due := by unfold enter; split <;> simp_all
@[simp] theorem enter_call : (enter s).call = s.call := by unfold enter; split <;> simp_all
@[simp] theorem enter_cmdIn : (enter s).cmdIn = s.cmdIn := by unfold enter; split <;> simp_all
@[simp] theorem enter_responses : (enter s).responses = s.responses := by unfold enter; split <;> simp_all
@[simp] theorem enter_trace : (enter s).trace = s.trace := by unfold enter; split <;> simp_all
@[simp] theorem enter_env : (enter s).env = s.env := by unfold enter; split <;> simp_all

/-! ### `enterPoll` -/

@[simp] theorem enterPoll_cfg : (enterPoll s).cfg = s.cfg := by unfold enterPoll; split <;> simp_all
@[simp] theorem enterPoll_st : (enterPoll s).st = s.st := by unfold enterPoll; split <;> simp_all
@[simp] theorem enterPoll_busy : (enterPoll s).busy = s.busy := by unfold enterPoll; split <;> simp_all
@[simp] theorem enterPoll_failed : (enterPoll s).failed = s.failed := by unfold enterPoll; split <;> simp_all
@[simp] theorem enterPoll_errKind : (enterPoll s).errKind = s.errKind := by unfold enterPoll; split <;> simp_all
@[simp] theorem enterPoll_errIndex : (enterPoll s).errIndex = s.errIndex := by unfold enterPoll; split <;> simp_all
@[simp] theorem enterPoll_op : (enterPoll s).op = s.op := by unfold enterPoll; split <;> simp_all
@[simp] theorem enterPoll_mute : (enterPoll s).mute = s.mute := by unfold enterPoll; split <;> simp_all
@[simp] theorem enterPoll_leftDb : (enterPoll s).leftDb = s.leftDb := by unfold enterPoll; split <;> simp_all
@[simp] theorem enterPoll_rightDb : (enterPoll s).rightDb = s.rightDb := by unfold enterPoll; split <;> simp_all
@[simp] theorem enterPoll_ch : (enterPoll s).ch = s.ch := by unfold enterPoll; split <;> simp_all
@[simp] theorem enterPoll_lcode : (enterPoll s).lcode = s.lcode := by unfold enterPoll; split <;> simp_all
@[simp] theorem enterPoll_rcode : (enterPoll s).rcode = s.rcode := by unfold enterPoll; split <;> simp_all
@[simp] theorem enterPoll_tmp : (enterPoll s).tmp = s.tmp := by unfold enterPoll; split <;> simp_all
@[simp] theorem enterPoll_pollCnt : (enterPoll s).pollCnt = if s.entered then s.pollCnt else 0 := by unfold enterPoll; split <;> simp_all
@[simp] theorem enterPoll_idx : (enterPoll s).idx = if s.entered then s.idx else 0 := by unfold enterPoll; split <;> simp_all
@[simp] theorem enterPoll_entered : (enterPoll s).entered = true := by unfold enterPoll; split <;> simp_all
@[simp] theorem enterPoll_res : (enterPoll s).res = s.res := by unfold enterPoll; split <;> simp_all
@[simp] theorem enterPoll_due : (enterPoll s).due = s.due := by unfold enterPoll; split <;> simp_all
@[simp] theorem enterPoll_call : (enterPoll s).call = s.call := by unfold enterPoll; split <;> simp_all
@[simp] theorem enterPoll_cmdIn : (enterPoll s).cmdIn = s.cmdIn := by unfold enterPoll; split <;> simp_all
@[simp] theorem enterPoll_responses : (enterPoll s).responses = s.responses := by unfold enterPoll; split <;> simp_all
@[simp] theorem enterPoll_trace : (enterPoll s).trace = s.trace := by unfold enterPoll; split <;> simp_all
@[simp] theorem enterPoll_env : (enterPoll s).env = s.env := by unfold enterPoll; split <;> simp_all

/-! ### `quantize` -/

@[simp] theorem quantize_cfg (c : Channel) (l r : ExtRat) : (quantize c l r s).cfg = s.cfg := rfl
@[simp] theorem quantize_st (c : Channel) (l r : ExtRat) : (quantize c l r s).st = s.st := rfl
@[simp] theorem quantize_busy (c : Channel) (l r : ExtRat) : (quantize c l r s).busy = s.busy := rfl
@[simp] theorem quantize_failed (c : Channel) (l r : ExtRat) : (quantize c l r s).failed = s.failed := rfl
@[simp] theorem quantize_errKind (c : Channel) (l r : ExtRat) : (quantize c l r s).errKind = s.errKind := rfl
@[simp] theorem quantize_errIndex (c : Channel) (l r : ExtRat) : (quantize c l r s).errIndex = s.errIndex := rfl
@[simp] theorem quantize_op (c : Channel) (l r : ExtRat) : (quantize c l r s).op = s.op := rfl
@[simp] theorem quantize_mute (c : Channel) (l r : ExtRat) : (quantize c l r s).mute = s.mute := rfl
@[simp] theorem quantize_leftDb (c : Channel) (l r : ExtRat) : (quantize c l r s).leftDb = s.leftDb := rfl
@[simp] theorem quantize_rightDb (c : Channel) (l r : ExtRat) : (quantize c l r s).rightDb = s.rightDb := rfl
@[simp] theorem quantize_ch (c : Channel) (l r : ExtRat) : (quantize c l r s).ch = s.ch := rfl
@[simp] theorem quantize_lcode (c : Channel) (l r : ExtRat) : (quantize c l r s).lcode = s.cfg.codeByte c l := rfl
@[simp] theorem quantize_rcode (c : Channel) (l r : ExtRat) : (quantize c l r s).rcode = s.cfg.codeByte c r := rfl
@[simp] theorem quantize_tmp (c : Channel) (l r : ExtRat) : (quantize c l r s).tmp = s.tmp := rfl
@[simp] theorem quantize_pollCnt (c : Channel) (l r : ExtRat) : (quantize c l r s).pollCnt = s.pollCnt := rfl
@[simp] theorem quantize_idx (c : Channel) (l r : ExtRat) : (quantize c l r s).idx = s.idx := rfl
@[simp] theorem quantize_entered (c : Channel) (l r : ExtRat) : (quantize c l r s).entered = s.entered := rfl
@[simp] theorem quantize_res (c : Channel) (l r : ExtRat) : (quantize c l r s).res = s.res := rfl
@[simp] theorem quantize_due (c : Channel) (l r : ExtRat) : (quantize c l r s).due = s.due := rfl
@[simp] theorem quantize_call (c : Channel) (l r : ExtRat) : (quantize c l r s).call = s.call := rfl
@[simp] theorem quantize_cmdIn (c : Channel) (l r : ExtRat) : (quantize c l r s).cmdIn = s.cmdIn := rfl
@[simp] theorem quantize_responses (c : Channel) (l r : ExtRat) : (quantize c l r s).responses = s.responses := rfl
@[simp] theorem quantize_trace (c : Channel) (l r : ExtRat) : (quantize c l r s).trace = s.trace := rfl
@[simp] theorem quantize_env (c : Channel) (l r : ExtRat) : (quantize c l r s).env = s.env := rfl

/-! ### `wrote` -/

@[simp] theorem wrote_cfg (pll : Bool) (bs : List Byte) (ok : Bool) (e : Env) : (wrote pll bs ok e s).cfg = s.cfg := rfl
@[simp] theorem wrote_st (pll : Bool) (bs : List Byte) (ok : Bool) (e : Env) : (wrote pll bs ok e s).st = s.st := rfl
@[simp] theorem wrote_busy (pll : Bool) (bs : List Byte) (ok : Bool) (e : Env) : (wrote pll bs ok e s).busy = s.busy := rfl
@[simp] theorem wrote_failed (pll : Bool) (bs : List Byte) (ok : Bool) (e : Env) : (wrote pll bs ok e s).failed = s.failed := rfl
@[simp] theorem wrote_errKind (pll : Bool) (bs : List Byte) (ok : Bool) (e : Env) : (wrote pll bs ok e s).errKind = s.errKind := rfl
@[simp] theorem wrote_errIndex (pll : Bool) (bs : List Byte) (ok : Bool) (e : Env) : (wrote pll bs ok e s).errIndex = s.errIndex := rfl
@[simp] theorem wrote_op (pll : Bool) (bs : List Byte) (ok : Bool) (e : Env) : (wrote pll bs ok e s).op = s.op := rfl
@[simp] theorem wrote_mute (pll : Bool) (bs : List Byte) (ok : Bool) (e : Env) : (wrote pll bs ok e s).mute = s.mute := rfl
@[simp] theorem wrote_leftDb (pll : Bool) (bs : List Byte) (ok : Bool) (e : Env) : (wrote pll bs ok e s).leftDb = s.leftDb := rfl
@[simp] theorem wrote_rightDb (pll : Bool) (bs : List Byte) (ok : Bool) (e : Env) : (wrote pll bs ok e s).rightDb = s.rightDb := rfl
@[simp] theorem wrote_ch (pll : Bool) (bs : List Byte) (ok : Bool) (e : Env) : (wrote pll bs ok e s).ch = s.ch := rfl
@[simp] theorem wrote_lcode (pll : Bool) (bs : List Byte) (ok : Bool) (e : Env) : (wrote pll bs ok e s).lcode = s.lcode := rfl
@[simp] theorem wrote_rcode (pll : Bool) (bs : List Byte) (ok : Bool) (e : Env) : (wrote pll bs ok e s).rcode = s.rcode := rfl
@[simp] theorem wrote_tmp (pll : Bool) (bs : List Byte) (ok : Bool) (e : Env) : (wrote pll bs ok e s).tmp = s.tmp := rfl
@[simp] theorem wrote_pollCnt (pll : Bool) (bs : List Byte) (ok : Bool) (e : Env) : (wrote pll bs ok e s).pollCnt = s.pollCnt := rfl
@[simp] theorem wrote_idx (pll : Bool) (bs : List Byte) (ok : Bool) (e : Env) : (wrote pll bs ok e s).idx = s.idx := rfl
@[simp] theorem wrote_entered (pll : Bool) (bs : List Byte) (ok : Bool) (e : Env) : (wrote pll bs ok e s).entered = s.entered := rfl
@[simp] theorem wrote_res (pll : Bool) (bs : List Byte) (ok : Bool) (e : Env) : (wrote pll bs ok e s).res = s.res := rfl
@[simp] theorem wrote_due (pll : Bool) (bs : List Byte) (ok : Bool) (e : Env) : (wrote pll bs ok e s).due = s.due := rfl
@[simp] theorem wrote_call (pll : Bool) (bs : List Byte) (ok : Bool) (e : Env) : (wrote pll bs ok e s).call = s.call := rfl
@[simp] theorem wrote_cmdIn (pll : Bool) (bs : List Byte) (ok : Bool) (e : Env) : (wrote pll bs ok e s).cmdIn = s.cmdIn := rfl
@[simp] theorem wrote_responses (pll : Bool) (bs : List Byte) (ok : Bool) (e : Env) : (wrote pll bs ok e s).responses = s.responses := rfl
@[simp] theorem wrote_trace (pll : Bool) (bs : List Byte) (ok : Bool) (e : Env) : (wrote pll bs ok e s).trace = s.trace ++ [.write s.cfg.devAddr bs ok] := rfl
@[simp] theorem wrote_env (pll : Bool) (bs : List Byte) (ok : Bool) (e : Env) : (wrote pll bs ok e s).env = e.noteWrite s.cfg pll (frameAddr bs) (framePayload bs) := rfl

/-! ### `gotRead` -/

@[simp] theorem gotRead_cfg (a : Addr) (g : Option Byte) (e : Env) : (gotRead a g e s).cfg = s.cfg := rfl
@[simp] theorem gotRead_st (a : Addr) (g : Option Byte) (e : Env) : (gotRead a g e s).st = s.st := rfl
@[simp] theorem gotRead_busy (a : Addr) (g : Option Byte) (e : Env) : (gotRead a g e s).busy = s.busy := rfl
@[simp] theorem gotRead_failed (a : Addr) (g : Option Byte) (e : Env) : (gotRead a g e s).failed = s.failed := rfl
@[simp] theorem gotRead_errKind (a : Addr) (g : Option Byte) (e : Env) : (gotRead a g e s).errKind = s.errKind := rfl
@[simp] theorem gotRead_errIndex (a : Addr) (g : Option Byte) (e : Env) : (gotRead a g e s).errIndex = s.errIndex := rfl
@[simp] theorem gotRead_op (a : Addr) (g : Option Byte) (e : Env) : (gotRead a g e s).op = s.op := rfl
@[simp] theorem gotRead_mute (a : Addr) (g : Option Byte) (e : Env) : (gotRead a g e s).mute = s.mute := rfl
@[simp] theorem gotRead_leftDb (a : Addr) (g : Option Byte) (e : Env) : (gotRead a g e s).leftDb = s.leftDb := rfl
@[simp] theorem gotRead_rightDb (a : Addr) (g : Option Byte) (e : Env) : (gotRead a g e s).rightDb = s.rightDb := rfl
@[simp] theorem gotRead_ch (a : Addr) (g : Option Byte) (e : Env) : (gotRead a g e s).ch = s.ch := rfl
@[simp] theorem gotRead_lcode (a : Addr) (g : Option Byte) (e : Env) : (gotRead a g e s).lcode = s.lcode := rfl
@[simp] theorem gotRead_rcode (a : Addr) (g : Option Byte) (e : Env) : (gotRead a g e s).rcode = s.rcode := rfl
@[simp] theorem gotRead_tmp (a : Addr) (g : Option Byte) (e : Env) : (gotRead a g e s).tmp = s.tmp := rfl
@[simp] theorem gotRead_pollCnt (a : Addr) (g : Option Byte) (e : Env) : (gotRead a g e s).pollCnt = s.pollCnt := rfl
@[simp] theorem gotRead_idx (a : Addr) (g : Option Byte) (e : Env) : (gotRead a g e s).idx = s.idx := rfl
@[simp] theorem gotRead_entered (a : Addr) (g : Option Byte) (e : Env) : (gotRead a g e s).entered = s.entered := rfl
@[simp] theorem gotRead_res (a : Addr) (g : Option Byte) (e : Env) : (gotRead a g e s).res = s.res := rfl
@[simp] theorem gotRead_due (a : Addr) (g : Option Byte) (e : Env) : (gotRead a g e s).due = s.due := rfl
@[simp] theorem gotRead_call (a : Addr) (g : Option Byte) (e : Env) : (gotRead a g e s).call = s.call := rfl
@[simp] theorem gotRead_cmdIn (a : Addr) (g : Option Byte) (e : Env) : (gotRead a g e s).cmdIn = s.cmdIn := rfl
@[simp] theorem gotRead_responses (a : Addr) (g : Option Byte) (e : Env) : (gotRead a g e s).responses = s.responses := rfl
@[simp] theorem gotRead_trace (a : Addr) (g : Option Byte) (e : Env) : (gotRead a g e s).trace = s.trace ++ [.read s.cfg.devAddr a g] := rfl
@[simp] theorem gotRead_env (a : Addr) (g : Option Byte) (e : Env) : (gotRead a g e s).env = e.noteRead s.cfg a g := rfl

/-! ### `takeWord` -/

@[simp] theorem takeWord_cfg : (takeWord s).cfg = s.cfg := by unfold takeWord; split <;> simp_all
@[simp] theorem takeWord_st : (takeWord s).st = s.st := by unfold takeWord; split <;> simp_all
@[simp] theorem takeWord_busy : (takeWord s).busy = s.busy := by unfold takeWord; split <;> simp_all
@[simp] theorem takeWord_failed : (takeWord s).failed = s.failed := by unfold takeWord; split <;> simp_all
@[simp] theorem takeWord_errKind : (takeWord s).errKind = s.errKind := by unfold takeWord; split <;> simp_all
@[simp] theorem takeWord_errIndex : (takeWord s).errIndex = s.errIndex := by unfold takeWord; split <;> simp_all
@[simp] theorem takeWord_op : (takeWord s).op = s.op := by unfold takeWord; split <;> simp_all
@[simp] theorem takeWord_mute : (takeWord s).mute = s.mute := by unfold takeWord; split <;> simp_all
@[simp] theorem takeWord_leftDb : (takeWord s).leftDb = s.leftDb := by unfold takeWord; split <;> simp_all
@[simp] theorem takeWord_rightDb : (takeWord s).rightDb = s.rightDb := by unfold takeWord; split <;> simp_all
@[simp] theorem takeWord_ch : (takeWord s).ch = s.ch := by unfold takeWord; split <;> simp_all
@[simp] theorem takeWord_lcode : (takeWord s).lcode = s.lcode := by unfold takeWord; split <;> simp_all
@[simp] theorem takeWord_rcode : (takeWord s).rcode = s.rcode := by unfold takeWord; split <;> simp_all
@[simp] theorem takeWord_tmp : (takeWord s).tmp = s.tmp := by unfold takeWord; split <;> simp_all
@[simp] theorem takeWord_pollCnt : (takeWord s).pollCnt = s.pollCnt := by unfold takeWord; split <;> simp_all
@[simp] theorem takeWord_idx : (takeWord s).idx = s.idx := by unfold takeWord; split <;> simp_all
@[simp] theorem takeWord_entered : (takeWord s).entered = s.entered := by unfold takeWord; split <;> simp_all
@[simp] theorem takeWord_res : (takeWord s).res = s.res := by unfold takeWord; split <;> simp_all
@[simp] theorem takeWord_due : (takeWord s).due = s.due := by unfold takeWord; split <;> simp_all
@[simp] theorem takeWord_call : (takeWord s).call = s.call := by unfold takeWord; split <;> simp_all
@[simp] theorem takeWord_cmdIn : (takeWord s).cmdIn = if s.busy then s.cmdIn else s.cmdIn.tail := by unfold takeWord; split <;> simp_all
@[simp] theorem takeWord_responses : (takeWord s).responses = s.responses := by unfold takeWord; split <;> simp_all
@[simp] theorem takeWord_trace : (takeWord s).trace = s.trace := by unfold takeWord; split <;> simp_all
@[simp] theorem takeWord_env : (takeWord s).env = s.env := by unfold takeWord; split <;> simp_all

/-! ### `intake` -/

@[simp] theorem intake_cfg : (intake s).cfg = s.cfg := by unfold intake; split <;> rfl
@[simp] theorem intake_st : (intake s).st = s.st := by unfold intake; split <;> rfl
@[simp] theorem intake_busy : (intake s).busy = s.busy := by unfold intake; split <;> rfl
@[simp] theorem intake_failed : (intake s).failed = s.failed := by unfold intake; split <;> rfl
@[simp] theorem intake_errKind : (intake s).errKind = s.errKind := by unfold intake; split <;> rfl
@[simp] theorem intake_errIndex : (intake s).errIndex = s.errIndex := by unfold intake; split <;> rfl
@[simp] theorem intake_op : (intake s).op = s.op := by unfold intake; split <;> rfl
@[simp] theorem intake_mute : (intake s).mute = s.mute := by unfold intake; split <;> rfl
@[simp] theorem intake_leftDb : (intake s).leftDb = s.leftDb := by unfold intake; split <;> rfl
@[simp] theorem intake_rightDb : (intake s).rightDb = s.rightDb := by unfold intake; split <;> rfl
@[simp] theorem intake_ch : (intake s).ch = s.ch := by unfold intake; split <;> rfl
@[simp] theorem intake_lcode : (intake s).lcode = s.lcode := by unfold intake; split <;> rfl
@[simp] theorem intake_rcode : (intake s).rcode = s.rcode := by unfold intake; split <;> rfl
@[simp] theorem intake_tmp : (intake s).tmp = s.tmp := by unfold intake; split <;> rfl
@[simp] theorem intake_pollCnt : (intake s).pollCnt = s.pollCnt := by unfold intake; split <;> rfl
@[simp] theorem intake_idx : (intake s).idx = s.idx := by unfold intake; split <;> rfl
@[simp] theorem intake_entered : (intake s).entered = s.entered := by unfold intake; split <;> rfl
@[simp] theorem intake_res : (intake s).res = s.res := by unfold intake; split <;> rfl
@[simp] theorem intake_due : (intake s).due = s.due := by unfold intake; split <;> rfl
@[simp] theorem intake_call : (intake s).call = s.call := by unfold intake; split <;> rfl
@[simp] theorem intake_cmdIn : (intake s).cmdIn = s.cmdIn := by unfold intake; split <;> rfl
@[simp] theorem intake_responses : (intake s).responses = s.responses := by unfold intake; split <;> rfl
@[simp] theorem intake_trace : (intake s).trace = s.trace := by unfold intake; split <;> rfl

/-- What other agents do in a step reaches the environment alone and reads no register of the block but the configuration
(R60 item 4). -/
theorem intake_block (t : State) (he : t.env = s.env) (hc : t.cfg = s.cfg) :
    intake t = { t with env := (intake s).env } := by
  unfold intake
  rw [he]
  split
  · rw [← he]
  · rw [hc]

/-! ### `enterGain` -/

@[simp] theorem enterGain_cfg (n : Nat) (mv : GainMove) (l r : ExtRat) : (enterGain n mv l r s).cfg = s.cfg := by unfold enterGain; split <;> rfl
@[simp] theorem enterGain_st (n : Nat) (mv : GainMove) (l r : ExtRat) : (enterGain n mv l r s).st = s.st := by unfold enterGain; split <;> rfl
@[simp] theorem enterGain_busy (n : Nat) (mv : GainMove) (l r : ExtRat) : (enterGain n mv l r s).busy = s.busy := by unfold enterGain; split <;> rfl
@[simp] theorem enterGain_failed (n : Nat) (mv : GainMove) (l r : ExtRat) : (enterGain n mv l r s).failed = s.failed := by unfold enterGain; split <;> rfl
@[simp] theorem enterGain_errKind (n : Nat) (mv : GainMove) (l r : ExtRat) : (enterGain n mv l r s).errKind = s.errKind := by unfold enterGain; split <;> rfl
@[simp] theorem enterGain_errIndex (n : Nat) (mv : GainMove) (l r : ExtRat) : (enterGain n mv l r s).errIndex = s.errIndex := by unfold enterGain; split <;> rfl
@[simp] theorem enterGain_op (n : Nat) (mv : GainMove) (l r : ExtRat) : (enterGain n mv l r s).op = s.op := by unfold enterGain; split <;> rfl
@[simp] theorem enterGain_mute (n : Nat) (mv : GainMove) (l r : ExtRat) : (enterGain n mv l r s).mute = s.mute := by unfold enterGain; split <;> rfl
@[simp] theorem enterGain_leftDb (n : Nat) (mv : GainMove) (l r : ExtRat) : (enterGain n mv l r s).leftDb = s.leftDb := by unfold enterGain; split <;> rfl
@[simp] theorem enterGain_rightDb (n : Nat) (mv : GainMove) (l r : ExtRat) : (enterGain n mv l r s).rightDb = s.rightDb := by unfold enterGain; split <;> rfl
@[simp] theorem enterGain_tmp (n : Nat) (mv : GainMove) (l r : ExtRat) : (enterGain n mv l r s).tmp = s.tmp := by unfold enterGain; split <;> rfl
@[simp] theorem enterGain_pollCnt (n : Nat) (mv : GainMove) (l r : ExtRat) : (enterGain n mv l r s).pollCnt = s.pollCnt := by unfold enterGain; split <;> rfl
@[simp] theorem enterGain_idx (n : Nat) (mv : GainMove) (l r : ExtRat) : (enterGain n mv l r s).idx = s.idx := by unfold enterGain; split <;> rfl
@[simp] theorem enterGain_entered (n : Nat) (mv : GainMove) (l r : ExtRat) : (enterGain n mv l r s).entered = s.entered := by unfold enterGain; split <;> rfl
@[simp] theorem enterGain_res (n : Nat) (mv : GainMove) (l r : ExtRat) : (enterGain n mv l r s).res = s.res := by unfold enterGain; split <;> rfl
@[simp] theorem enterGain_due (n : Nat) (mv : GainMove) (l r : ExtRat) : (enterGain n mv l r s).due = s.due := by unfold enterGain; split <;> rfl
@[simp] theorem enterGain_call (n : Nat) (mv : GainMove) (l r : ExtRat) : (enterGain n mv l r s).call = s.call := by unfold enterGain; split <;> rfl
@[simp] theorem enterGain_cmdIn (n : Nat) (mv : GainMove) (l r : ExtRat) : (enterGain n mv l r s).cmdIn = s.cmdIn := by unfold enterGain; split <;> rfl
@[simp] theorem enterGain_responses (n : Nat) (mv : GainMove) (l r : ExtRat) : (enterGain n mv l r s).responses = s.responses := by unfold enterGain; split <;> rfl
@[simp] theorem enterGain_trace (n : Nat) (mv : GainMove) (l r : ExtRat) : (enterGain n mv l r s).trace = s.trace := by unfold enterGain; split <;> rfl
@[simp] theorem enterGain_env (n : Nat) (mv : GainMove) (l r : ExtRat) : (enterGain n mv l r s).env = s.env := by unfold enterGain; split <;> rfl

/-! ### `entry`, `skipEmpty`, `settle` and `hold` (R14) -/

@[simp] theorem entry_cfg : (entry s).cfg = s.cfg := by unfold entry; (repeat' split) <;> simp
@[simp] theorem entry_busy : (entry s).busy = s.busy := by unfold entry; (repeat' split) <;> simp
@[simp] theorem entry_failed : (entry s).failed = s.failed := by unfold entry; (repeat' split) <;> simp
@[simp] theorem entry_errKind : (entry s).errKind = s.errKind := by unfold entry; (repeat' split) <;> simp
@[simp] theorem entry_errIndex : (entry s).errIndex = s.errIndex := by unfold entry; (repeat' split) <;> simp
@[simp] theorem entry_op : (entry s).op = s.op := by unfold entry; (repeat' split) <;> simp
@[simp] theorem entry_mute : (entry s).mute = s.mute := by unfold entry; (repeat' split) <;> simp
@[simp] theorem entry_leftDb : (entry s).leftDb = s.leftDb := by unfold entry; (repeat' split) <;> simp
@[simp] theorem entry_rightDb : (entry s).rightDb = s.rightDb := by unfold entry; (repeat' split) <;> simp
@[simp] theorem entry_ch : (entry s).ch = s.ch := by unfold entry; (repeat' split) <;> simp
@[simp] theorem entry_lcode : (entry s).lcode = s.lcode := by unfold entry; (repeat' split) <;> simp
@[simp] theorem entry_rcode : (entry s).rcode = s.rcode := by unfold entry; (repeat' split) <;> simp
@[simp] theorem entry_res : (entry s).res = s.res := by unfold entry; (repeat' split) <;> simp
@[simp] theorem entry_call : (entry s).call = s.call := by unfold entry; (repeat' split) <;> simp
@[simp] theorem entry_cmdIn : (entry s).cmdIn = s.cmdIn := by unfold entry; (repeat' split) <;> simp
@[simp] theorem entry_responses : (entry s).responses = s.responses := by unfold entry; (repeat' split) <;> simp
@[simp] theorem entry_trace : (entry s).trace = s.trace := by unfold entry; (repeat' split) <;> simp
@[simp] theorem entry_env : (entry s).env = s.env := by unfold entry; (repeat' split) <;> simp
@[simp] theorem entry_st : (entry s).st = s.st := by unfold entry; (repeat' split) <;> simp
@[simp] theorem entry_tmp : (entry s).tmp = s.tmp := by unfold entry; (repeat' split) <;> simp
@[simp] theorem entry_due : (entry s).due = s.due := by unfold entry; (repeat' split) <;> simp

@[simp] theorem skipEmpty_cfg : (skipEmpty s).cfg = s.cfg := by unfold skipEmpty; (repeat' split) <;> simp
@[simp] theorem skipEmpty_busy : (skipEmpty s).busy = s.busy := by unfold skipEmpty; (repeat' split) <;> simp
@[simp] theorem skipEmpty_failed : (skipEmpty s).failed = s.failed := by unfold skipEmpty; (repeat' split) <;> simp
@[simp] theorem skipEmpty_errKind : (skipEmpty s).errKind = s.errKind := by unfold skipEmpty; (repeat' split) <;> simp
@[simp] theorem skipEmpty_errIndex : (skipEmpty s).errIndex = s.errIndex := by unfold skipEmpty; (repeat' split) <;> simp
@[simp] theorem skipEmpty_op : (skipEmpty s).op = s.op := by unfold skipEmpty; (repeat' split) <;> simp
@[simp] theorem skipEmpty_mute : (skipEmpty s).mute = s.mute := by unfold skipEmpty; (repeat' split) <;> simp
@[simp] theorem skipEmpty_leftDb : (skipEmpty s).leftDb = s.leftDb := by unfold skipEmpty; (repeat' split) <;> simp
@[simp] theorem skipEmpty_rightDb : (skipEmpty s).rightDb = s.rightDb := by unfold skipEmpty; (repeat' split) <;> simp
@[simp] theorem skipEmpty_ch : (skipEmpty s).ch = s.ch := by unfold skipEmpty; (repeat' split) <;> simp
@[simp] theorem skipEmpty_lcode : (skipEmpty s).lcode = s.lcode := by unfold skipEmpty; (repeat' split) <;> simp
@[simp] theorem skipEmpty_rcode : (skipEmpty s).rcode = s.rcode := by unfold skipEmpty; (repeat' split) <;> simp
@[simp] theorem skipEmpty_res : (skipEmpty s).res = s.res := by unfold skipEmpty; (repeat' split) <;> simp
@[simp] theorem skipEmpty_call : (skipEmpty s).call = s.call := by unfold skipEmpty; (repeat' split) <;> simp
@[simp] theorem skipEmpty_cmdIn : (skipEmpty s).cmdIn = s.cmdIn := by unfold skipEmpty; (repeat' split) <;> simp
@[simp] theorem skipEmpty_responses : (skipEmpty s).responses = s.responses := by unfold skipEmpty; (repeat' split) <;> simp
@[simp] theorem skipEmpty_trace : (skipEmpty s).trace = s.trace := by unfold skipEmpty; (repeat' split) <;> simp
@[simp] theorem skipEmpty_env : (skipEmpty s).env = s.env := by unfold skipEmpty; (repeat' split) <;> simp
@[simp] theorem skipEmpty_tmp : (skipEmpty s).tmp = s.tmp := by unfold skipEmpty; (repeat' split) <;> simp
@[simp] theorem skipEmpty_pollCnt : (skipEmpty s).pollCnt = s.pollCnt := by unfold skipEmpty; (repeat' split) <;> simp
@[simp] theorem skipEmpty_due : (skipEmpty s).due = s.due := by unfold skipEmpty; (repeat' split) <;> simp

@[simp] theorem writeDue_cfg (d : Due) : (writeDue d s).cfg = s.cfg := rfl
@[simp] theorem writeDue_busy (d : Due) : (writeDue d s).busy = s.busy := rfl
@[simp] theorem writeDue_failed (d : Due) : (writeDue d s).failed = s.failed := rfl
@[simp] theorem writeDue_errKind (d : Due) : (writeDue d s).errKind = s.errKind := rfl
@[simp] theorem writeDue_errIndex (d : Due) : (writeDue d s).errIndex = s.errIndex := rfl
@[simp] theorem writeDue_op (d : Due) : (writeDue d s).op = s.op := rfl
@[simp] theorem writeDue_mute (d : Due) : (writeDue d s).mute = s.mute := rfl
@[simp] theorem writeDue_leftDb (d : Due) : (writeDue d s).leftDb = s.leftDb := rfl
@[simp] theorem writeDue_rightDb (d : Due) : (writeDue d s).rightDb = s.rightDb := rfl
@[simp] theorem writeDue_ch (d : Due) : (writeDue d s).ch = s.ch := rfl
@[simp] theorem writeDue_lcode (d : Due) : (writeDue d s).lcode = s.lcode := rfl
@[simp] theorem writeDue_rcode (d : Due) : (writeDue d s).rcode = s.rcode := rfl
@[simp] theorem writeDue_res (d : Due) : (writeDue d s).res = s.res := rfl
@[simp] theorem writeDue_call (d : Due) : (writeDue d s).call = s.call := rfl
@[simp] theorem writeDue_cmdIn (d : Due) : (writeDue d s).cmdIn = s.cmdIn := rfl
@[simp] theorem writeDue_responses (d : Due) : (writeDue d s).responses = s.responses := rfl
@[simp] theorem writeDue_trace (d : Due) : (writeDue d s).trace = s.trace := rfl
@[simp] theorem writeDue_env (d : Due) : (writeDue d s).env = s.env := rfl
@[simp] theorem writeDue_st (d : Due) : (writeDue d s).st = if s.inStart then d.st else s.st := rfl
@[simp] theorem writeDue_idx (d : Due) : (writeDue d s).idx = d.idx := rfl
@[simp] theorem writeDue_tmp (d : Due) : (writeDue d s).tmp = d.tmp := rfl
@[simp] theorem writeDue_pollCnt (d : Due) : (writeDue d s).pollCnt = d.pollCnt := rfl
@[simp] theorem writeDue_entered (d : Due) : (writeDue d s).entered = d.entered := rfl
@[simp] theorem writeDue_due (d : Due) : (writeDue d s).due = none := rfl

@[simp] theorem settle_cfg : (settle s).cfg = s.cfg := by unfold settle; split <;> simp
@[simp] theorem settle_busy : (settle s).busy = s.busy := by unfold settle; split <;> simp
@[simp] theorem settle_failed : (settle s).failed = s.failed := by unfold settle; split <;> simp
@[simp] theorem settle_errKind : (settle s).errKind = s.errKind := by unfold settle; split <;> simp
@[simp] theorem settle_errIndex : (settle s).errIndex = s.errIndex := by unfold settle; split <;> simp
@[simp] theorem settle_op : (settle s).op = s.op := by unfold settle; split <;> simp
@[simp] theorem settle_mute : (settle s).mute = s.mute := by unfold settle; split <;> simp
@[simp] theorem settle_leftDb : (settle s).leftDb = s.leftDb := by unfold settle; split <;> simp
@[simp] theorem settle_rightDb : (settle s).rightDb = s.rightDb := by unfold settle; split <;> simp
@[simp] theorem settle_ch : (settle s).ch = s.ch := by unfold settle; split <;> simp
@[simp] theorem settle_lcode : (settle s).lcode = s.lcode := by unfold settle; split <;> simp
@[simp] theorem settle_rcode : (settle s).rcode = s.rcode := by unfold settle; split <;> simp
@[simp] theorem settle_res : (settle s).res = s.res := by unfold settle; split <;> simp
@[simp] theorem settle_call : (settle s).call = s.call := by unfold settle; split <;> simp
@[simp] theorem settle_cmdIn : (settle s).cmdIn = s.cmdIn := by unfold settle; split <;> simp
@[simp] theorem settle_responses : (settle s).responses = s.responses := by unfold settle; split <;> simp
@[simp] theorem settle_trace : (settle s).trace = s.trace := by unfold settle; split <;> simp
@[simp] theorem settle_env : (settle s).env = s.env := by unfold settle; split <;> simp
@[simp] theorem settle_due : (settle s).due = none := by unfold settle; split <;> simp_all

@[simp] theorem hold_cfg (w t : State) : (hold w t).cfg = t.cfg := rfl
@[simp] theorem hold_busy (w t : State) : (hold w t).busy = t.busy := rfl
@[simp] theorem hold_failed (w t : State) : (hold w t).failed = t.failed := rfl
@[simp] theorem hold_errKind (w t : State) : (hold w t).errKind = t.errKind := rfl
@[simp] theorem hold_errIndex (w t : State) : (hold w t).errIndex = t.errIndex := rfl
@[simp] theorem hold_op (w t : State) : (hold w t).op = t.op := rfl
@[simp] theorem hold_mute (w t : State) : (hold w t).mute = t.mute := rfl
@[simp] theorem hold_leftDb (w t : State) : (hold w t).leftDb = t.leftDb := rfl
@[simp] theorem hold_rightDb (w t : State) : (hold w t).rightDb = t.rightDb := rfl
@[simp] theorem hold_ch (w t : State) : (hold w t).ch = t.ch := rfl
@[simp] theorem hold_lcode (w t : State) : (hold w t).lcode = t.lcode := rfl
@[simp] theorem hold_rcode (w t : State) : (hold w t).rcode = t.rcode := rfl
@[simp] theorem hold_res (w t : State) : (hold w t).res = t.res := rfl
@[simp] theorem hold_call (w t : State) : (hold w t).call = t.call := rfl
@[simp] theorem hold_cmdIn (w t : State) : (hold w t).cmdIn = t.cmdIn := rfl
@[simp] theorem hold_responses (w t : State) : (hold w t).responses = t.responses := rfl
@[simp] theorem hold_trace (w t : State) : (hold w t).trace = t.trace := rfl
@[simp] theorem hold_env (w t : State) : (hold w t).env = t.env := rfl
@[simp] theorem hold_st (w t : State) : (hold w t).st = w.st := rfl
@[simp] theorem hold_idx (w t : State) : (hold w t).idx = w.idx := rfl
@[simp] theorem hold_tmp (w t : State) : (hold w t).tmp = w.tmp := rfl
@[simp] theorem hold_pollCnt (w t : State) : (hold w t).pollCnt = w.pollCnt := rfl
@[simp] theorem hold_entered (w t : State) : (hold w t).entered = w.entered := rfl
@[simp] theorem hold_due (w t : State) : (hold w t).due = some ⟨t.st, t.idx, t.tmp, t.pollCnt, t.entered⟩ := rfl

/-! ### What is due, and the environment -/

theorem settle_of_due_none {s : State} (h : s.due = none) : settle s = s := by simp [settle, h]

theorem settle_of_due {s : State} {d : Due} (h : s.due = some d) : settle s = skipEmpty (writeDue d s) := by
  simp [settle, h]

theorem skipEmpty_env_with (e : Env) : skipEmpty { s with env := e } = { skipEmpty s with env := e } := by
  have hi : State.inStart { s with env := e } = s.inStart := rfl
  have he : enter { s with env := e } = { enter s with env := e } := by unfold enter; split <;> rfl
  simp only [skipEmpty, hi, he, goto]
  (repeat' split) <;> rfl

theorem settle_env_with (e : Env) : settle { s with env := e } = { settle s with env := e } := by
  rcases Option.eq_none_or_eq_some s.due with hd | ⟨d, hd⟩
  · have hd' : State.due { s with env := e } = none := hd
    rw [settle_of_due_none hd, settle_of_due_none hd']
  · have hd' : State.due { s with env := e } = some d := hd
    rw [settle_of_due hd, settle_of_due hd']
    exact skipEmpty_env_with (writeDue d s) e

/-- What other agents do in a step and the register writes still due are independent (R14, R60). -/
theorem settle_intake : settle (intake s) = { settle s with env := (intake s).env } := by
  rw [intake_block s s rfl rfl]
  exact settle_env_with _ _

theorem requestOf_env_with (e : Env) : requestOf { s with env := e } = requestOf s := by
  unfold requestOf enter
  cases s.entered <;> rfl

/-- What other agents do does not change which transaction comes next. -/
theorem nextRequest_intake : nextRequest (intake s) = nextRequest s := by
  simp only [nextRequest, settle_intake]
  exact requestOf_env_with _ _

end Sys2Proof.Machine
end

