-- ==== Sys2Proof/Laws/Ops.lean ====
section
/-! SUPPORT. One lemma per shared operation and outcome: what SEND, READ_REG, a row of SEND_TABLE, a transaction of RMW
and of SET_GAIN come to when the environment answers `Ok`, `Fail` or not yet. -/

namespace Sys2Proof.Machine

variable {s : State} {e : Env}

/-! ### SEND and READ_REG -/

theorem send_wait (pll : Bool) (a : Addr) (p : List Byte) (h : s.answerWrite (encodeFrame a p) = none) :
    send pll a p s = (s, .wait) := by
  simp [send, busWrite, h]

theorem send_fail (pll : Bool) (a : Addr) (p : List Byte) (h : s.answerWrite (encodeFrame a p) = some (false, e)) :
    send pll a p s = (wrote pll (encodeFrame a p) false e s, .fail) := by
  simp [send, busWrite, h]

theorem send_ok (pll : Bool) (a : Addr) (p : List Byte) (h : s.answerWrite (encodeFrame a p) = some (true, e)) :
    send pll a p s = ({ wrote pll (encodeFrame a p) true e s with idx := s.idx + 1 }, .ok) := by
  simp [send, busWrite, h]

/-- Everything SEND can do. -/
theorem send_cases (pll : Bool) (a : Addr) (p : List Byte) (s : State) :
    (s.answerWrite (encodeFrame a p) = none ∧ send pll a p s = (s, .wait)) ∨
    (∃ e, s.answerWrite (encodeFrame a p) = some (false, e) ∧
      send pll a p s = (wrote pll (encodeFrame a p) false e s, .fail)) ∨
    (∃ e, s.answerWrite (encodeFrame a p) = some (true, e) ∧
      send pll a p s = ({ wrote pll (encodeFrame a p) true e s with idx := s.idx + 1 }, .ok)) := by
  cases h : s.answerWrite (encodeFrame a p) with
  | none => exact .inl ⟨rfl, send_wait pll a p h⟩
  | some r =>
    obtain ⟨ok, e⟩ := r
    cases ok with
    | false => exact .inr (.inl ⟨e, rfl, send_fail pll a p h⟩)
    | true => exact .inr (.inr ⟨e, rfl, send_ok pll a p h⟩)

theorem readReg_wait (a : Addr) (h : s.answerRead a = none) : readReg a s = (s, .wait) := by
  simp [readReg, busRead, h]

theorem readReg_fail (a : Addr) (h : s.answerRead a = some (none, e)) :
    readReg a s = (gotRead a none e s, .fail) := by
  simp [readReg, busRead, h]

theorem readReg_ok (a : Addr) (b : Byte) (h : s.answerRead a = some (some b, e)) :
    readReg a s = ({ gotRead a (some b) e s with idx := s.idx + 1 }, .ok b) := by
  simp [readReg, busRead, h]

/-- Everything READ_REG can do. -/
theorem readReg_cases (a : Addr) (s : State) :
    (s.answerRead a = none ∧ readReg a s = (s, .wait)) ∨
    (∃ e, s.answerRead a = some (none, e) ∧ readReg a s = (gotRead a none e s, .fail)) ∨
    (∃ b e, s.answerRead a = some (some b, e) ∧
      readReg a s = ({ gotRead a (some b) e s with idx := s.idx + 1 }, .ok b)) := by
  cases h : s.answerRead a with
  | none => exact .inl ⟨rfl, readReg_wait a h⟩
  | some r =>
    obtain ⟨got, e⟩ := r
    cases got with
    | none => exact .inr (.inl ⟨e, rfl, readReg_fail a h⟩)
    | some b => exact .inr (.inr ⟨b, e, rfl, readReg_ok a b h⟩)

/-! ### SEND_TABLE -/

theorem sendRow_end (k : Nat) (rows : List Row) (h : rows.length ≤ k) : sendRow k rows s = (s, .done) := by
  simp [sendRow, h]

theorem sendRow_wait (k : Nat) (rows : List Row) (row : Row) (hr : rows[k]? = some row)
    (h : s.answerWrite (encodeFrame row.addr [row.value]) = none) : sendRow k rows s = (s, .wait) := by
  simp [sendRow, hr, send_wait _ _ _ h]

theorem sendRow_fail (k : Nat) (rows : List Row) (row : Row) (hr : rows[k]? = some row)
    (h : s.answerWrite (encodeFrame row.addr [row.value]) = some (false, e)) :
    sendRow k rows s = (wrote false (encodeFrame row.addr [row.value]) false e s, .fail) := by
  simp [sendRow, hr, send_fail _ _ _ h]

theorem sendRow_ok (k : Nat) (rows : List Row) (row : Row) (hr : rows[k]? = some row)
    (h : s.answerWrite (encodeFrame row.addr [row.value]) = some (true, e)) :
    sendRow k rows s = ({ wrote false (encodeFrame row.addr [row.value]) true e s with idx := s.idx + 1 },
      if rows.length ≤ k + 1 then .done else .more) := by
  simp [sendRow, hr, send_ok _ _ _ h]

/-- Everything one row of SEND_TABLE can do. -/
theorem sendRow_cases (k : Nat) (rows : List Row) (s : State) :
    (rows[k]? = none ∧ sendRow k rows s = (s, .done)) ∨
    (∃ row, rows[k]? = some row ∧ s.answerWrite (encodeFrame row.addr [row.value]) = none ∧
      sendRow k rows s = (s, .wait)) ∨
    (∃ row e, rows[k]? = some row ∧
      s.answerWrite (encodeFrame row.addr [row.value]) = some (false, e) ∧
      sendRow k rows s = (wrote false (encodeFrame row.addr [row.value]) false e s, .fail)) ∨
    (∃ row e, rows[k]? = some row ∧
      s.answerWrite (encodeFrame row.addr [row.value]) = some (true, e) ∧
      sendRow k rows s = ({ wrote false (encodeFrame row.addr [row.value]) true e s with idx := s.idx + 1 },
        if rows.length ≤ k + 1 then .done else .more)) := by
  cases hr : rows[k]? with
  | none => exact .inl ⟨rfl, by simp [sendRow, hr]⟩
  | some row =>
    cases h : s.answerWrite (encodeFrame row.addr [row.value]) with
    | none => exact .inr (.inl ⟨row, rfl, h, sendRow_wait k rows row hr h⟩)
    | some r =>
      obtain ⟨ok, e⟩ := r
      cases ok with
      | false => exact .inr (.inr (.inl ⟨row, e, rfl, h, sendRow_fail k rows row hr h⟩))
      | true => exact .inr (.inr (.inr ⟨row, e, rfl, h, sendRow_ok k rows row hr h⟩))

/-! ### RMW -/

/-- Everything one transaction of an RMW can do (R144). -/
theorem rmw_cases (n : Nat) (a : Addr) (f : ByteFn) (s : State) :
    rmw n a f s = (s, .wait) ∨
    (n % 2 = 0 ∧ ∃ e, s.answerRead a = some (none, e) ∧ rmw n a f s = (gotRead a none e s, .fail)) ∨
    (n % 2 = 0 ∧ ∃ t e, s.answerRead a = some (some t, e) ∧
      rmw n a f s = ({ gotRead a (some t) e s with idx := s.idx + 1, tmp := t }, .more)) ∨
    (n % 2 = 1 ∧ ∃ e, s.answerWrite (encodeFrame a [f.apply s.cfg s.tmp]) = some (false, e) ∧
      rmw n a f s = (wrote false (encodeFrame a [f.apply s.cfg s.tmp]) false e s, .fail)) ∨
    (n % 2 = 1 ∧ ∃ e, s.answerWrite (encodeFrame a [f.apply s.cfg s.tmp]) = some (true, e) ∧
      rmw n a f s = ({ wrote false (encodeFrame a [f.apply s.cfg s.tmp]) true e s with idx := s.idx + 1 }, .done)) := by
  rcases Nat.mod_two_eq_zero_or_one n with hp | hp
  · rcases readReg_cases a s with ⟨-, h⟩ | ⟨e, ha, h⟩ | ⟨b, e, ha, h⟩
    · exact .inl (by simp [rmw, hp, h])
    · exact .inr (.inl ⟨hp, e, ha, by simp [rmw, hp, h]⟩)
    · exact .inr (.inr (.inl ⟨hp, b, e, ha, by simp [rmw, hp, h]⟩))
  · rcases send_cases false a [f.apply s.cfg s.tmp] s with ⟨-, h⟩ | ⟨e, ha, h⟩ | ⟨e, ha, h⟩
    · exact .inl (by simp [rmw, hp, h])
    · exact .inr (.inr (.inr (.inl ⟨hp, e, ha, by simp [rmw, hp, h]⟩)))
    · exact .inr (.inr (.inr (.inr ⟨hp, e, ha, by simp [rmw, hp, h]⟩)))

/-! ### SET_GAIN -/

/-- A list of SET_GAINs at its current move is an RMW of that move, after the entry of SET_GAIN. -/
theorem gainStep_at (n : Nat) (moves : List GainMove) (l r : ExtRat) (m : Bool) (mv : GainMove)
    (h : moves[n / 2]? = some mv) :
    gainStep n moves l r m s =
      (let s1 := enterGain n mv l r s
       let x := rmw n (mv.addr s.cfg) (mv.fn s1.lcode s1.rcode m) s1
       (x.1, if x.2 = .done then (if 2 * moves.length ≤ n + 1 then .done else .more) else x.2)) := by
  simp only [gainStep, h, enterGain_cfg]
  split
  · rename_i heq
    simp [heq]
  · rename_i heq
    split
    · rename_i hd
      exact (heq _ (Prod.ext rfl hd)).elim
    · rfl

theorem gainStep_end (n : Nat) (moves : List GainMove) (l r : ExtRat) (m : Bool)
    (h : moves[n / 2]? = none) : gainStep n moves l r m s = (s, .done) := by
  simp [gainStep, h]

/-- The entry of SET_GAIN changes the channel and the codes only, and only with the read of the first move. -/
theorem enterGain_odd (n : Nat) (mv : GainMove) (l r : ExtRat) (h : n % 2 = 1) : enterGain n mv l r s = s := by
  simp [enterGain, h]

@[simp] theorem enterGain_answerRead (n : Nat) (mv : GainMove) (l r : ExtRat) (a : Addr) :
    (enterGain n mv l r s).answerRead a = s.answerRead a := by simp [State.answerRead]

@[simp] theorem enterGain_answerWrite (n : Nat) (mv : GainMove) (l r : ExtRat) (bs : List Byte) :
    (enterGain n mv l r s).answerWrite bs = s.answerWrite bs := by simp [State.answerWrite]

/-- The bytes of the write-back of a move (R145). -/
def moveFrame (mv : GainMove) (m : Bool) (s : State) : List Byte :=
  encodeFrame (mv.addr s.cfg) [(mv.fn s.lcode s.rcode m).apply s.cfg s.tmp]

/-- Everything one transaction of a list of SET_GAINs can do (R145). -/
theorem gainStep_cases (n : Nat) (moves : List GainMove) (l r : ExtRat) (m : Bool) (s : State) :
    (moves[n / 2]? = none ∧ gainStep n moves l r m s = (s, .done)) ∨
    ∃ mv, moves[n / 2]? = some mv ∧
      (gainStep n moves l r m s = (enterGain n mv l r s, .wait) ∨
       (n % 2 = 0 ∧ ∃ e, s.answerRead (mv.addr s.cfg) = some (none, e) ∧
         gainStep n moves l r m s = (gotRead (mv.addr s.cfg) none e (enterGain n mv l r s), .fail)) ∨
       (n % 2 = 0 ∧ ∃ t e, s.answerRead (mv.addr s.cfg) = some (some t, e) ∧
         gainStep n moves l r m s =
           ({ gotRead (mv.addr s.cfg) (some t) e (enterGain n mv l r s) with idx := s.idx + 1, tmp := t }, .more)) ∨
       (n % 2 = 1 ∧ ∃ e, s.answerWrite (moveFrame mv m s) = some (false, e) ∧
         gainStep n moves l r m s = (wrote false (moveFrame mv m s) false e s, .fail)) ∨
       (n % 2 = 1 ∧ ∃ e, s.answerWrite (moveFrame mv m s) = some (true, e) ∧
         gainStep n moves l r m s = ({ wrote false (moveFrame mv m s) true e s with idx := s.idx + 1 },
           if 2 * moves.length ≤ n + 1 then .done else .more))) := by
  cases hm : moves[n / 2]? with
  | none => exact .inl ⟨rfl, gainStep_end n moves l r m hm⟩
  | some mv =>
    refine .inr ⟨mv, rfl, ?_⟩
    rw [gainStep_at n moves l r m mv hm]
    rcases rmw_cases n (mv.addr s.cfg) (mv.fn (enterGain n mv l r s).lcode (enterGain n mv l r s).rcode m)
      (enterGain n mv l r s) with h | ⟨hp, e, ha, h⟩ | ⟨hp, t, e, ha, h⟩ | ⟨hp, e, ha, h⟩ | ⟨hp, e, ha, h⟩
    · exact .inl (by simp [h])
    · exact .inr (.inl ⟨hp, e, by simpa using ha, by simp [h]⟩)
    · exact .inr (.inr (.inl ⟨hp, t, e, by simpa using ha, by simp [h]⟩))
    · have ho : n % 2 = 1 := hp
      rw [enterGain_odd n mv l r ho] at ha h ⊢
      exact .inr (.inr (.inr (.inl ⟨ho, e, ha, by simp [h, moveFrame]⟩)))
    · have ho : n % 2 = 1 := hp
      rw [enterGain_odd n mv l r ho] at ha h ⊢
      exact .inr (.inr (.inr (.inr ⟨ho, e, ha, by simp [h, moveFrame]⟩)))

theorem gainMoves_length (cfg : Config) (c : Channel) : (gainMoves cfg c).length = 1 ∨ (gainMoves cfg c).length = 2 := by
  unfold gainMoves
  split
  · exact .inl rfl
  · exact .inr rfl

end Sys2Proof.Machine
end

