-- ==== Sys2Proof/Laws/Transitions.lean ====
section
/-! SUPPORT. Everything one step of a transition, of a gain command, and of the machine can do. -/

namespace Sys2Proof.Machine

variable (s : State)

/-- Everything a clock-source write (T1, T4) can do. -/
theorem clkselStep_cases (v : Byte) (target : SeqState) :
    clkselStep v target s = s ∨
    (∃ e, s.answerWrite (encodeFrame s.cfg.clkselAddr [v]) = some (false, e) ∧
      clkselStep v target s =
        raise true .busError s.idx (wrote false (encodeFrame s.cfg.clkselAddr [v]) false e s)) ∨
    (∃ e, s.answerWrite (encodeFrame s.cfg.clkselAddr [v]) = some (true, e) ∧
      clkselStep v target s =
        goto target { wrote false (encodeFrame s.cfg.clkselAddr [v]) true e s with idx := s.idx + 1 }) := by
  rcases send_cases false s.cfg.clkselAddr [v] s with ⟨-, h⟩ | ⟨e, ha, h⟩ | ⟨e, ha, h⟩
  · exact .inl (by simp [clkselStep, h])
  · exact .inr (.inl ⟨e, ha, by simp [clkselStep, h]⟩)
  · exact .inr (.inr ⟨e, ha, by simp [clkselStep, h]⟩)

/-- Everything T2 can do (R162). -/
theorem execT2_cases :
    (s.cfg.pllCommands = .boardError ∧ execT2 s = .next (raise true .boardError 0 (enter s))) ∨
    ∃ cmds, s.cfg.pllCommands = .ok cmds ∧
      ((cmds[(enter s).idx.toNat]? = none ∧ execT2 s = .next (goto .pllConfiguring (enter s))) ∨
       ∃ k, cmds[(enter s).idx.toNat]? = some k ∧
        ((k.payload = [] ∧ execT2 s = .refused .emptyPayload) ∨
         (k.payload ≠ [] ∧
          (execT2 s = .next (enter s) ∨
           (∃ e, (enter s).answerWrite (encodeFrame k.addr k.payload) = some (false, e) ∧
             execT2 s = .next (raise true .busError (enter s).idx
               (wrote true (encodeFrame k.addr k.payload) false e (enter s)))) ∨
           (∃ e, (enter s).answerWrite (encodeFrame k.addr k.payload) = some (true, e) ∧
             execT2 s = .next
               (if cmds.length ≤ (enter s).idx.toNat + 1 then
                 goto .pllConfiguring
                   { wrote true (encodeFrame k.addr k.payload) true e (enter s) with idx := (enter s).idx + 1 }
                else { wrote true (encodeFrame k.addr k.payload) true e (enter s) with idx := (enter s).idx + 1 })))))) := by
  cases hc : s.cfg.pllCommands with
  | boardError => exact .inl ⟨rfl, by simp [execT2, hc]⟩
  | ok cmds =>
    refine .inr ⟨cmds, rfl, ?_⟩
    cases hk : cmds[(enter s).idx.toNat]? with
    | none => exact .inl ⟨rfl, by simp only [execT2, hc, hk]⟩
    | some k =>
      refine .inr ⟨k, rfl, ?_⟩
      by_cases hp : k.payload = []
      · exact .inl ⟨hp, by simp only [execT2, hc, hk, hp]; rfl⟩
      · refine .inr ⟨hp, ?_⟩
        have he : k.payload.isEmpty = false := by simp [hp]
        rcases send_cases true k.addr k.payload (enter s) with ⟨-, h⟩ | ⟨e, ha, h⟩ | ⟨e, ha, h⟩
        · exact .inl (by simp only [execT2, hc, hk, he, h]; rfl)
        · exact .inr (.inl ⟨e, ha, by simp only [execT2, hc, hk, he, h]; rfl⟩)
        · exact .inr (.inr ⟨e, ha, by simp only [execT2, hc, hk, he, h]; rfl⟩)

/-- Everything T3 can do (R163). -/
theorem execT3_cases :
    execT3 s = .next (enterPoll s) ∨
    (∃ e, (enterPoll s).answerRead s.cfg.lockAddr = some (none, e) ∧
      execT3 s = .next (raise true .busError (enterPoll s).pollCnt (gotRead s.cfg.lockAddr none e (enterPoll s)))) ∨
    (∃ b e, (enterPoll s).answerRead s.cfg.lockAddr = some (some b, e) ∧ s.cfg.lockTest b = true ∧
      execT3 s = .next (goto .pllLocked
        { gotRead s.cfg.lockAddr (some b) e (enterPoll s) with idx := (enterPoll s).idx + 1 })) ∨
    (∃ b e, (enterPoll s).answerRead s.cfg.lockAddr = some (some b, e) ∧ s.cfg.lockTest b = false ∧
      let t := { gotRead s.cfg.lockAddr (some b) e (enterPoll s) with
        idx := (enterPoll s).idx + 1, pollCnt := (enterPoll s).pollCnt + 1 }
      execT3 s = .next (if ((enterPoll s).pollCnt + 1).toNat = s.cfg.pollMax then
        raise true .pllLockTimeout (BitVec.ofNat 16 s.cfg.pollMax) t else t)) := by
  rcases readReg_cases s.cfg.lockAddr (enterPoll s) with ⟨-, h⟩ | ⟨e, ha, h⟩ | ⟨b, e, ha, h⟩
  · exact .inl (by simp only [execT3, h])
  · exact .inr (.inl ⟨e, ha, by simp only [execT3, h]; rfl⟩)
  · cases hl : s.cfg.lockTest b with
    | true => exact .inr (.inr (.inl ⟨b, e, ha, hl, by simp only [execT3, h, gotRead_cfg, enterPoll_cfg, hl]; rfl⟩))
    | false =>
      exact .inr (.inr (.inr ⟨b, e, ha, hl, by
        simp only [execT3, h, gotRead_cfg, enterPoll_cfg, hl]
        rfl⟩))

/-- Everything T5 can do (R165). -/
theorem execT5_cases :
    (s.cfg.boardTable = .boardError ∧ execT5 s = .next (raise true .boardError 0 (enter s))) ∨
    ∃ rows, s.cfg.boardTable = .ok rows ∧
      ((rows[(enter s).idx.toNat]? = none ∧ execT5 s = .next (goto .boardConfiguring (enter s))) ∨
       (∃ row, rows[(enter s).idx.toNat]? = some row ∧ execT5 s = .next (enter s)) ∨
       ∃ row e, rows[(enter s).idx.toNat]? = some row ∧
        (((enter s).answerWrite (encodeFrame row.addr [row.value]) = some (false, e) ∧
            execT5 s = .next (raise true .busError (enter s).idx
              (wrote false (encodeFrame row.addr [row.value]) false e (enter s)))) ∨
         ((enter s).answerWrite (encodeFrame row.addr [row.value]) = some (true, e) ∧
            let t := { wrote false (encodeFrame row.addr [row.value]) true e (enter s) with
              idx := (enter s).idx + 1 }
            execT5 s = .next
              (if rows.length ≤ (enter s).idx.toNat + 1 then goto .boardConfiguring t else t)))) := by
  cases hc : s.cfg.boardTable with
  | boardError => exact .inl ⟨rfl, by simp only [execT5, hc]⟩
  | ok rows =>
    refine .inr ⟨rows, rfl, ?_⟩
    rcases sendRow_cases (enter s).idx.toNat rows (enter s) with ⟨hr, h⟩ | ⟨row, hr, -, h⟩ | ⟨row, e, hr, ha, h⟩ | ⟨row, e, hr, ha, h⟩
    · exact .inl ⟨hr, by simp only [execT5, hc, h]⟩
    · exact .inr (.inl ⟨row, hr, by simp only [execT5, hc, h]⟩)
    · exact .inr (.inr ⟨row, e, hr, .inl ⟨ha, by simp only [execT5, hc, h]; rfl⟩⟩)
    · refine .inr (.inr ⟨row, e, hr, .inr ⟨ha, ?_⟩⟩)
      by_cases hl : rows.length ≤ (enter s).idx.toNat + 1
      · simp only [execT5, hc, h, if_pos hl]
      · simp only [execT5, hc, h, if_neg hl]

/-- What T6 and a gain command make of the progress of their list of SET_GAINs. -/
theorem execT6_eq (x : State × Progress)
    (h : gainStep (enter s).idx.toNat (defaultMoves s.cfg) (.fin 0) (.fin 0) false (enter s) = x) :
    execT6 s = .next (match x.2 with
      | .wait => x.1
      | .more => x.1
      | .done => goto .ready x.1
      | .fail => raise true .busError x.1.idx x.1) := by
  obtain ⟨t, p⟩ := x
  cases p <;> simp only [execT6, h]

theorem gainBody_eq (c : Channel) (x : State × Progress)
    (h : gainStep s.idx.toNat (gainMoves s.cfg c) (f32Value s.leftDb) (f32Value s.rightDb) s.mute s = x) :
    gainBody c s = (match x.2 with
      | .wait => x.1
      | .more => x.1
      | .done => ret x.1
      | .fail => raise false .busError x.1.idx x.1) := by
  obtain ⟨t, p⟩ := x
  cases p <;> simp only [gainBody, h]

/-! ### What `fetch` answers -/

/-- The instruction of each sequencer state (R96). -/
def transitionOf : SeqState → Instr
  | .reset => .t1
  | .clockSourceDefault => .t2
  | .pllConfiguring => .t3
  | .pllLocked => .t4
  | .clockSourcePll => .t5
  | .boardConfiguring => .t6
  | .ready => .ready

theorem fetch_start (hb : s.busy = true) (ho : s.op = 0#3) : fetch s = .run (transitionOf s.st) := by
  simp only [fetch, hb, ho, if_true]
  cases s.st <;> rfl

@[simp] theorem cmdRsv_cmdWord (r : BitVec 4) (m : Bool) (o : BitVec 3) (l q : F32) : cmdRsv (cmdWord r m o l q) = r := by
  apply BitVec.eq_of_getLsbD_eq
  intro i hi
  simp only [cmdRsv, cmdWord, BitVec.getLsbD_extractLsb', BitVec.getLsbD_append, BitVec.getLsbD_ofBool]
  have h1 : ¬ (68 + i < 32) := by omega
  have h2 : ¬ (68 + i - 32 < 32) := by omega
  have h3 : ¬ (68 + i - 32 - 32 < 3) := by omega
  have h4 : ¬ (68 + i - 32 - 32 - 3 < 1) := by omega
  have h5 : 68 + i - 32 - 32 - 3 - 1 = i := by omega
  simp [hi, h1, h2, h3, h4, h5]

@[simp] theorem cmdMute_cmdWord (r : BitVec 4) (m : Bool) (o : BitVec 3) (l q : F32) : cmdMute (cmdWord r m o l q) = m := by
  simp only [cmdMute, cmdWord, BitVec.getLsbD_append, BitVec.getLsbD_ofBool]
  simp

@[simp] theorem cmdOp_cmdWord (r : BitVec 4) (m : Bool) (o : BitVec 3) (l q : F32) : cmdOp (cmdWord r m o l q) = o := by
  apply BitVec.eq_of_getLsbD_eq
  intro i hi
  simp only [cmdOp, cmdWord, BitVec.getLsbD_extractLsb', BitVec.getLsbD_append]
  have h1 : ¬ (64 + i < 32) := by omega
  have h2 : ¬ (64 + i - 32 < 32) := by omega
  have h5 : 64 + i - 32 - 32 = i := by omega
  simp [hi, h1, h2, h5]

@[simp] theorem cmdLeft_cmdWord (r : BitVec 4) (m : Bool) (o : BitVec 3) (l q : F32) : cmdLeft (cmdWord r m o l q) = l := by
  apply BitVec.eq_of_getLsbD_eq
  intro i hi
  simp only [cmdLeft, cmdWord, BitVec.getLsbD_extractLsb', BitVec.getLsbD_append]
  have h1 : ¬ (32 + i < 32) := by omega
  have h5 : 32 + i - 32 = i := by omega
  simp [hi, h1, h5]

@[simp] theorem cmdRight_cmdWord (r : BitVec 4) (m : Bool) (o : BitVec 3) (l q : F32) : cmdRight (cmdWord r m o l q) = q := by
  apply BitVec.eq_of_getLsbD_eq
  intro i hi
  simp only [cmdRight, cmdWord, BitVec.getLsbD_extractLsb', BitVec.getLsbD_append]
  simp [hi]

theorem fetch_gain (hb : s.busy = true) (ho : s.op ≠ 0#3) :
    fetch s = .run (opInstr s.op s.leftDb s.rightDb s.mute) := by
  simp [fetch, hb, ho, fetchWord, decode, decodeCmd, State.latchedWord]

/-! ### What a command does -/

/-- A command of an idle block: START and the gain commands are accepted or answered, reserved opcodes are answered
(R89, R160, R190, R191). -/
theorem exec_opInstr_idle (op : BitVec 3) (l r : F32) (m : Bool) (hb : s.busy = false) :
    exec (opInstr op l r m) s = .next
      (if op = 0#3 then goto .reset { s.latch 0 l r m with failed := false, env := s.env.noteStart }
       else if 5 < op.toNat ∨ s.cfg.inUse (channelOf op) = false then acceptIllegal op l r m s
       else if s.st ≠ .ready then raise false .notReady 0 { s.latch op l r m with idx := 0 }
       else { s.latch op l r m with idx := 0 }) := by
  have key : ∀ k : Fin 8, op = BitVec.ofFin k → exec (opInstr op l r m) s = .next
      (if op = 0#3 then goto .reset { s.latch 0 l r m with failed := false, env := s.env.noteStart }
       else if 5 < op.toNat ∨ s.cfg.inUse (channelOf op) = false then acceptIllegal op l r m s
       else if s.st ≠ .ready then raise false .notReady 0 { s.latch op l r m with idx := 0 }
       else { s.latch op l r m with idx := 0 }) := by
    intro k hk
    subst hk
    fin_cases k <;>
      simp [opInstr, exec, execStart, execSetLineInGain, execSetAuxInGain, execSetMicInGain, execSetLineOutGain,
        execSetHpOutGain, execReservedOp6, execReservedOp7, gainCommand, reservedCommand, hb]
  exact key op.toFin rfl

/-- A gain command in progress does its current transaction (R192). -/
theorem exec_opInstr_busy (hb : s.busy = true) (ho : s.op ≠ 0#3) :
    exec (opInstr s.op s.leftDb s.rightDb s.mute) s =
      .next (if 5 < s.op.toNat then s else gainBody (channelOf s.op) s) := by
  have key : ∀ (op : BitVec 3) (k : Fin 8), op = BitVec.ofFin k → op ≠ 0#3 → s.op = op →
      exec (opInstr op s.leftDb s.rightDb s.mute) s =
        .next (if 5 < op.toNat then s else gainBody (channelOf op) s) := by
    intro op k hk h0 hs
    subst hk
    fin_cases k
    · exact absurd rfl h0
    all_goals
      simp at hs
      simp [opInstr, exec, execSetLineInGain, execSetAuxInGain, execSetMicInGain, execSetLineOutGain,
        execSetHpOutGain, execReservedOp6, execReservedOp7, gainCommand, reservedCommand, hb, State.latches, hs]
  exact key s.op s.op.toFin rfl ho rfl

/-- A command word is a command, or nothing when a reserved bit is set (R88, R89). -/
theorem fetchWord_cases (w : BitVec 72) :
    (cmdRsv w = 0#4 ∧ fetchWord w = .run (opInstr (cmdOp w) (cmdLeft w) (cmdRight w) (cmdMute w))) ∨
    (cmdRsv w ≠ 0#4 ∧ fetchWord w = .illegal w) := by
  by_cases h : cmdRsv w = 0#4
  · exact .inl ⟨h, by simp [fetchWord, decode, decodeCmd, h]⟩
  · exact .inr ⟨h, by simp [fetchWord, decode, decodeCmd, h]⟩

/-! ### What a step does -/

/-- A step that does not reset is the block's action on the settled state, landed (R14). -/
theorem step_run (hw : s.cfg.wellFormed = true) (hr : rstHigh s = false) (i : Instr)
    (hf : fetch (settle (intake s)) = .run i) :
    step s = landOutcome (intake s) (settle (intake s)) (exec i (takeWord (settle (intake s)))) := by
  simp only [step, hw, hr, hf]
  rfl

theorem land_idle (v u t : State) (hb : u.busy = false) : land v u t = t := by simp [land, hb]

theorem land_ended (v u t : State) (ht : t.busy = false) : land v u t = t := by
  unfold land
  simp only [ht]
  split <;> (try rfl)
  split <;> rfl

theorem land_quiet (v u t : State) (hr : requestOf u = none) (htr : t.trace = u.trace) : land v u t = t := by
  simp [land, hr, htr]

theorem land_waits (v u t : State) (hb : u.busy = true) (ht : t.busy = true) (hr : (requestOf u).isSome = true)
    (htr : t.trace = u.trace) : land v u t = v := by
  simp [land, hb, ht, hr, htr]

theorem land_held (v u t : State) (hb : u.busy = true) (ht : t.busy = true) (x : TraceEntry)
    (htr : t.trace = u.trace ++ [x]) : land v u t = hold (entry u) t := by
  simp [land, hb, ht, htr]

/-- Everything a step can do when it answers a next state. -/
theorem step_next_cases {t : State} (h : step s = .next t) :
    s.cfg.wellFormed = true ∧
    ((rstHigh s = true ∧ t = applyRst (intake s)) ∨
     (rstHigh s = false ∧ ∃ u, u = settle (intake s) ∧
      ((u.busy = true ∧ u.op = 0#3 ∧ ∃ t0, exec (transitionOf u.st) u = .next t0 ∧ t = land (intake s) u t0) ∨
       (u.busy = true ∧ u.op ≠ 0#3 ∧ 5 < u.op.toNat ∧ t = land (intake s) u u) ∨
       (u.busy = true ∧ u.op ≠ 0#3 ∧ u.op.toNat ≤ 5 ∧ t = land (intake s) u (gainBody (channelOf u.op) u)) ∨
       (u.busy = false ∧ u.cmdIn = [] ∧ t = u) ∨
       (u.busy = false ∧ ∃ w rest, u.cmdIn = w :: rest ∧
         ((cmdRsv w ≠ 0#4 ∧ t = acceptBadWord w { u with cmdIn := rest }) ∨
          (cmdRsv w = 0#4 ∧
            exec (opInstr (cmdOp w) (cmdLeft w) (cmdRight w) (cmdMute w)) { u with cmdIn := rest } = .next t)))))) := by
  unfold step at h
  split at h
  · cases h
  · rename_i hw
    refine ⟨by simpa using hw, ?_⟩
    split at h
    · rename_i hr
      exact .inl ⟨hr, by cases h; rfl⟩
    · rename_i hr
      refine .inr ⟨by simpa using hr, settle (intake s), rfl, ?_⟩
      dsimp only at h
      generalize intake s = v at h ⊢
      generalize hu : settle v = u at h ⊢
      rcases Bool.eq_false_or_eq_true u.busy with hb | hb
      · have ht : takeWord u = u := by unfold takeWord; rw [if_pos hb]
        by_cases ho : u.op = 0#3
        · rw [fetch_start _ hb ho, ht] at h
          refine .inl ⟨hb, ho, ?_⟩
          dsimp only at h
          cases hx : exec (transitionOf u.st) u with
          | next t0 =>
            rw [hx] at h
            exact ⟨t0, rfl, by cases h; rfl⟩
          | fault r => rw [hx] at h; cases h
          | refused r => rw [hx] at h; cases h
        · rw [fetch_gain _ hb ho, ht] at h
          dsimp only at h
          rw [exec_opInstr_busy _ hb ho] at h
          by_cases h5 : 5 < u.op.toNat
          · rw [if_pos h5] at h
            exact .inr (.inl ⟨hb, ho, h5, by cases h; rfl⟩)
          · rw [if_neg h5] at h
            exact .inr (.inr (.inl ⟨hb, ho, by omega, by cases h; rfl⟩))
      · refine .inr (.inr (.inr ?_))
        have ht : takeWord u = { u with cmdIn := u.cmdIn.tail } := by
          unfold takeWord; rw [if_neg (by rw [hb]; decide)]
        rcases hc : u.cmdIn with _ | ⟨w, rest⟩
        · have hf : fetch u = .idle := by simp only [fetch, hb, hc]; rfl
          rw [hf] at h
          exact .inl ⟨hb, rfl, by cases h; rfl⟩
        · have hf : fetch u = fetchWord w := by simp only [fetch, hb, hc]; rfl
          refine .inr ⟨hb, w, rest, rfl, ?_⟩
          rw [hf, ht, hc] at h
          rcases fetchWord_cases w with ⟨hrsv, hx⟩ | ⟨hrsv, hx⟩
          · rw [hx] at h
            refine .inr ⟨hrsv, ?_⟩
            dsimp only [List.tail_cons] at h
            rw [exec_opInstr_idle _ _ _ _ _ (by exact hb)] at h ⊢
            simp only [landOutcome, land_idle _ _ _ hb] at h
            exact h
          · rw [hx] at h
            exact .inl ⟨hrsv, by cases h; rfl⟩

end Sys2Proof.Machine
end

