-- ==== Sys2Proof/Laws/Step.lean ====
section
/-! SUPPORT. Everything one step of an operation in progress, and one accepted command, can do. -/

namespace Sys2Proof.Machine

/-- What executing the operation in progress comes to, in the state `u` in which its transaction is issued: it waits, or moves on without a transaction; its write or read is
answered; or it ends without a transaction. -/
inductive BusyEffect (u t : State) : Prop
  /-- No transaction is answered: the operation goes on. -/
  | quiet (trace : t.trace = u.trace) (responses : t.responses = u.responses) (busy : t.busy = u.busy)
      (env : t.env = u.env) (st : t.st = u.st ∨ u.op = 0#3) (failed : t.failed = u.failed)
  /-- The write it issued returned `Ok`; a gain command may end with it. -/
  | wrote (pll : Bool) (a : Addr) (p : List Byte) (e : Env)
      (request : requestOf u = some (.write pll (encodeFrame a p))) (payload : p ≠ [])
      (answer : u.answerWrite (encodeFrame a p) = some (true, e))
      (trace : t.trace = u.trace ++ [.write u.cfg.devAddr (encodeFrame a p) true])
      (env : t.env = e.noteWrite u.cfg pll a p)
      (ending : (t.responses = u.responses ∧ t.busy = u.busy) ∨
        (u.op ≠ 0#3 ∧ t.busy = false ∧ t.errKind = .ok ∧ t.responses = u.responses ++ [t.rspWord]))
      (st : t.st = u.st ∨ u.op = 0#3) (failed : t.failed = u.failed)
  /-- The write it issued returned `Fail`: the operation ends (R212). -/
  | writeFailed (pll : Bool) (a : Addr) (p : List Byte) (e : Env)
      (request : requestOf u = some (.write pll (encodeFrame a p))) (payload : p ≠ [])
      (answer : u.answerWrite (encodeFrame a p) = some (false, e))
      (trace : t.trace = u.trace ++ [.write u.cfg.devAddr (encodeFrame a p) false])
      (env : t.env = e.noteWrite u.cfg pll a p) (responses : t.responses = u.responses ++ [t.rspWord])
      (busy : t.busy = false) (kind : t.errKind = .err .busError) (st : t.st = u.st)
      (failed : t.failed = u.failed ∨ u.op = 0#3)
  /-- The read it issued returned a byte; T3 may end with it in a timeout. -/
  | read (a : Addr) (b : Byte) (e : Env) (request : requestOf u = some (.read a))
      (answer : u.answerRead a = some (some b, e))
      (trace : t.trace = u.trace ++ [.read u.cfg.devAddr a (some b)]) (env : t.env = e.noteRead u.cfg a (some b))
      (ending : (t.responses = u.responses ∧ t.busy = u.busy) ∨
        (u.op = 0#3 ∧ t.busy = false ∧ t.errKind = .err .pllLockTimeout ∧ t.responses = u.responses ++ [t.rspWord]))
      (st : t.st = u.st ∨ u.op = 0#3) (failed : t.failed = u.failed ∨ u.op = 0#3)
  /-- The read it issued returned `Fail`: the operation ends (R212). -/
  | readFailed (a : Addr) (e : Env) (request : requestOf u = some (.read a))
      (answer : u.answerRead a = some (none, e)) (trace : t.trace = u.trace ++ [.read u.cfg.devAddr a none])
      (env : t.env = e) (responses : t.responses = u.responses ++ [t.rspWord]) (busy : t.busy = false)
      (kind : t.errKind = .err .busError) (st : t.st = u.st) (failed : t.failed = u.failed ∨ u.op = 0#3)
  /-- It ends without a transaction: `READY`, or a board hook that answered `BoardError`. -/
  | ended (trace : t.trace = u.trace) (env : t.env = u.env) (responses : t.responses = u.responses ++ [t.rspWord])
      (busy : t.busy = false) (kind : t.errKind = .ok ∨ t.errKind = .err .boardError) (st : t.st = u.st)
      (failed : t.failed = u.failed ∨ u.op = 0#3)

/-- What no transaction of an operation in progress writes: the configuration, the command port, the latches, and what
is due. -/
structure SameLatches (u t : State) : Prop where
  due : t.due = u.due
  cfg : t.cfg = u.cfg
  cmdIn : t.cmdIn = u.cmdIn
  op : t.op = u.op
  mute : t.mute = u.mute
  leftDb : t.leftDb = u.leftDb
  rightDb : t.rightDb = u.rightDb

@[simp] theorem enter_answerWrite (s : State) (b : List Byte) : (enter s).answerWrite b = s.answerWrite b := by
  simp [State.answerWrite]

@[simp] theorem enter_answerRead (s : State) (a : Addr) : (enter s).answerRead a = s.answerRead a := by
  simp [State.answerRead]

@[simp] theorem enterPoll_answerRead (s : State) (a : Addr) : (enterPoll s).answerRead a = s.answerRead a := by
  simp [State.answerRead]

theorem quiet_enter (u : State) (ho : u.op = 0#3) : BusyEffect u (enter u) ∧ SameLatches u (enter u) :=
  ⟨.quiet (by simp) (by simp) (by simp) (by simp) (.inr ho) (by simp), by constructor <;> simp⟩

theorem requestOf_start (u : State) (hb : u.busy = true) (ho : u.op = 0#3) : requestOf u = (match u.st with
    | .reset => some (.write false (encodeFrame u.cfg.clkselAddr [u.cfg.clkselDefault]))
    | .clockSourceDefault =>
      match u.cfg.pllCommands.entries[(enter u).idx.toNat]? with
      | none => none
      | some k => some (.write true (encodeFrame k.addr k.payload))
    | .pllConfiguring => some (.read u.cfg.lockAddr)
    | .pllLocked => some (.write false (encodeFrame u.cfg.clkselAddr [u.cfg.clkselPll]))
    | .clockSourcePll =>
      match u.cfg.boardTable.entries[(enter u).idx.toNat]? with
      | none => none
      | some row => some (.write false (encodeFrame row.addr [row.value]))
    | .boardConfiguring => gainRequest (enter u).idx.toNat (defaultMoves u.cfg) false u
    | .ready => none) := by
  simp only [requestOf, hb, ho]
  rfl

theorem requestOf_gain (u : State) (hb : u.busy = true) (ho : u.op ≠ 0#3) :
    requestOf u = gainRequest u.idx.toNat (gainMoves u.cfg (channelOf u.op)) u.mute u := by
  simp [requestOf, hb, ho]

/-- Everything a clock-source write can do, as an effect (T1, T4). -/
theorem clkselStep_effect (u : State) (v : Byte) (target : SeqState) (ho : u.op = 0#3)
    (hn : requestOf u = some (.write false (encodeFrame u.cfg.clkselAddr [v]))) :
    BusyEffect u (clkselStep v target (enter u)) ∧ SameLatches u (clkselStep v target (enter u)) := by
  rcases clkselStep_cases (enter u) v target with h | ⟨e, ha, h⟩ | ⟨e, ha, h⟩ <;> rw [h]
  · exact quiet_enter u ho
  · simp only [enter_answerWrite, enter_cfg] at ha
    refine ⟨.writeFailed false _ [_] e hn (by simp) ha ?_ ?_ ?_ ?_ ?_ ?_ ?_, ?_⟩
    all_goals first
      | (simp [wrote, raise, State.finish, State.rspWord, ho]; done)
      | (constructor <;> simp [wrote])
  · simp only [enter_answerWrite, enter_cfg] at ha
    refine ⟨.wrote false _ [_] e hn (by simp) ha ?_ ?_ ?_ ?_ ?_, ?_⟩
    all_goals first
      | (simp [wrote, goto, ho]; done)
      | (constructor <;> simp [wrote, goto])

theorem execT2_effect (u t : State) (ho : u.op = 0#3) (hx : execT2 u = .next t)
    (hn : requestOf u = (match u.cfg.pllCommands.entries[(enter u).idx.toNat]? with
      | none => none
      | some k => some (.write true (encodeFrame k.addr k.payload)))) : BusyEffect u t ∧ SameLatches u t := by
  rcases execT2_cases u with ⟨hc, h⟩ | ⟨cmds, hc, ⟨hk, h⟩ | ⟨k, hk, ⟨hp, h⟩ | ⟨hp, h | ⟨e, ha, h⟩ | ⟨e, ha, h⟩⟩⟩⟩ <;>
    rw [h] at hx <;> cases hx
  · refine ⟨.ended ?_ ?_ ?_ ?_ ?_ ?_ (.inr ho), ?_⟩
    all_goals first
      | (simp [raise, State.finish, State.rspWord]; done)
      | (constructor <;> simp)
  · exact ⟨.quiet (by simp) (by simp) (by simp) (by simp) (.inr ho) (by simp), by constructor <;> simp⟩
  · exact quiet_enter u ho
  · rw [enter_answerWrite] at ha
    refine ⟨.writeFailed true _ _ e (hn.trans (by simp only [hc, HookResult.entries, hk])) hp ha ?_ ?_ ?_ ?_ ?_ ?_ ?_, ?_⟩
    all_goals first
      | (simp [wrote, raise, State.finish, State.rspWord, ho]; done)
      | (constructor <;> simp [wrote])
  · rw [enter_answerWrite] at ha
    refine ⟨.wrote true _ _ e (hn.trans (by simp only [hc, HookResult.entries, hk])) hp ha ?_ ?_ ?_ ?_ ?_, ?_⟩
    all_goals split
    all_goals first
      | (simp [wrote, goto, ho]; done)
      | (constructor <;> simp [wrote, goto])

theorem execT3_effect (u t : State) (ho : u.op = 0#3) (hx : execT3 u = .next t)
    (hn : requestOf u = some (.read u.cfg.lockAddr)) : BusyEffect u t ∧ SameLatches u t := by
  rcases execT3_cases u with h | ⟨e, ha, h⟩ | ⟨b, e, ha, hl, h⟩ | ⟨b, e, ha, hl, h⟩ <;> rw [h] at hx <;> cases hx
  · exact ⟨.quiet (by simp) (by simp) (by simp) (by simp) (.inr ho) (by simp), by constructor <;> simp⟩
  · rw [enterPoll_answerRead] at ha
    refine ⟨.readFailed _ e hn ha ?_ ?_ ?_ ?_ ?_ ?_ ?_, ?_⟩
    all_goals first
      | (simp [gotRead, Env.noteRead, raise, State.finish, State.rspWord, ho]; done)
      | (constructor <;> simp [gotRead])
  · rw [enterPoll_answerRead] at ha
    refine ⟨.read _ b e hn ha ?_ ?_ ?_ ?_ ?_, ?_⟩
    all_goals first
      | (simp [gotRead, goto, ho]; done)
      | (constructor <;> simp [gotRead, goto])
  · rw [enterPoll_answerRead] at ha
    refine ⟨.read _ b e hn ha ?_ ?_ ?_ ?_ ?_, ?_⟩
    all_goals split
    all_goals first
      | (simp [gotRead, ho, raise, State.finish, State.rspWord]; done)
      | (constructor <;> simp [gotRead])

theorem execT5_effect (u t : State) (ho : u.op = 0#3) (hx : execT5 u = .next t)
    (hn : requestOf u = (match u.cfg.boardTable.entries[(enter u).idx.toNat]? with
      | none => none
      | some row => some (.write false (encodeFrame row.addr [row.value])))) : BusyEffect u t ∧ SameLatches u t := by
  rcases execT5_cases u with ⟨hc, h⟩ | ⟨rows, hc, ⟨h1, h⟩ | ⟨row, h1, h⟩ | ⟨row, e, h1, ⟨ha, h⟩ | ⟨ha, h⟩⟩⟩ <;>
    rw [h] at hx <;> cases hx
  · refine ⟨.ended ?_ ?_ ?_ ?_ ?_ ?_ (.inr ho), ?_⟩
    all_goals first
      | (simp [raise, State.finish, State.rspWord]; done)
      | (constructor <;> simp)
  · exact ⟨.quiet (by simp) (by simp) (by simp) (by simp) (.inr ho) (by simp), by constructor <;> simp⟩
  · exact quiet_enter u ho
  · rw [enter_answerWrite] at ha
    refine ⟨.writeFailed false _ _ e (hn.trans (by simp only [hc, HookResult.entries, h1])) (by simp) ha
      ?_ ?_ ?_ ?_ ?_ ?_ ?_, ?_⟩
    all_goals first
      | (simp [wrote, raise, State.finish, State.rspWord, ho]; done)
      | (constructor <;> simp [wrote])
  · rw [enter_answerWrite] at ha
    refine ⟨.wrote false _ _ e (hn.trans (by simp only [hc, HookResult.entries, h1])) (by simp) ha ?_ ?_ ?_ ?_ ?_, ?_⟩
    all_goals split
    all_goals first
      | (simp [wrote, goto, ho]; done)
      | (constructor <;> simp [wrote, goto])

theorem execT6_effect (u t : State) (ho : u.op = 0#3) (hx : execT6 u = .next t)
    (hn : requestOf u = gainRequest (enter u).idx.toNat (defaultMoves u.cfg) false u) : BusyEffect u t ∧ SameLatches u t := by
  rw [execT6_eq u _ rfl] at hx
  cases hx
  rcases gainStep_cases (enter u).idx.toNat (defaultMoves u.cfg) (.fin 0) (.fin 0) false (enter u) with
    ⟨h0, h⟩ | ⟨mv, h0, h | ⟨hp, e, ha, h⟩ | ⟨hp, b, e, ha, h⟩ | ⟨hp, e, ha, h⟩ | ⟨hp, e, ha, h⟩⟩ <;> rw [h]
  · exact ⟨.quiet (by simp) (by simp) (by simp) (by simp) (.inr ho) (by simp), by constructor <;> simp⟩
  · exact ⟨.quiet (by simp) (by simp) (by simp) (by simp) (.inr ho) (by simp), by constructor <;> simp⟩
  · rw [enter_answerRead] at ha
    refine ⟨.readFailed _ e (hn.trans (by simp only [gainRequest, h0, hp, enter_cfg]; rfl)) ha ?_ ?_ ?_ ?_ ?_ ?_ ?_, ?_⟩
    all_goals first
      | (simp [gotRead, Env.noteRead, raise, State.finish, State.rspWord, ho]; done)
      | (constructor <;> simp [gotRead])
  · rw [enter_answerRead] at ha
    refine ⟨.read _ b e (hn.trans (by simp only [gainRequest, h0, hp, enter_cfg]; rfl)) ha ?_ ?_ ?_ ?_ ?_, ?_⟩
    all_goals first
      | (simp [gotRead, ho]; done)
      | (constructor <;> simp [gotRead])
  · rw [enter_answerWrite] at ha
    refine ⟨.writeFailed false _ _ e (hn.trans (by simp only [gainRequest, h0, hp, enter_cfg, enter_lcode, enter_rcode, enter_tmp]; rfl)) (by simp) ha
      ?_ ?_ ?_ ?_ ?_ ?_ ?_, ?_⟩
    all_goals first
      | (simp [wrote, raise, State.finish, State.rspWord, ho, moveFrame]; done)
      | (constructor <;> simp [wrote])
  · rw [enter_answerWrite] at ha
    refine ⟨.wrote false _ _ e (hn.trans (by simp only [gainRequest, h0, hp, enter_cfg, enter_lcode, enter_rcode, enter_tmp]; rfl)) (by simp) ha ?_ ?_ ?_ ?_ ?_, ?_⟩
    all_goals by_cases hl : 2 * (defaultMoves u.cfg).length ≤ (enter u).idx.toNat + 1
    all_goals simp only [hl, if_true, if_false]
    all_goals first
      | (simp [wrote, goto, ho, moveFrame]; done)
      | (constructor <;> simp [wrote, goto])

/-- Everything a step of a START can do (R160 to R167). -/
theorem transition_effect (u t : State) (hb : u.busy = true) (ho : u.op = 0#3)
    (hx : exec (transitionOf u.st) u = .next t) : BusyEffect u t ∧ SameLatches u t := by
  have hn := requestOf_start u hb ho
  cases hst : u.st <;> simp only [hst] at hn <;> rw [hst] at hx <;> simp only [transitionOf, exec, execT1, execT4] at hx
  · cases hx
    exact clkselStep_effect u _ _ ho hn
  · exact execT2_effect u t ho hx hn
  · exact execT3_effect u t ho hx hn
  · cases hx
    exact clkselStep_effect u _ _ ho hn
  · exact execT5_effect u t ho hx hn
  · exact execT6_effect u t ho hx hn
  · cases hx
    refine ⟨.ended ?_ ?_ ?_ ?_ ?_ ?_ (.inr ho), ?_⟩
    all_goals first
      | (simp [ret, State.finish, State.rspWord]; done)
      | (constructor <;> simp [ret])

/-- Everything a step of a gain command can do (R192). -/
theorem gainBody_effect (u : State) (hb : u.busy = true) (ho : u.op ≠ 0#3) :
    BusyEffect u (gainBody (channelOf u.op) u) ∧ SameLatches u (gainBody (channelOf u.op) u) := by
  have hn := requestOf_gain u hb ho
  rw [gainBody_eq u _ _ rfl]
  rcases gainStep_cases u.idx.toNat (gainMoves u.cfg (channelOf u.op)) (f32Value u.leftDb) (f32Value u.rightDb) u.mute u with
    ⟨h0, h⟩ | ⟨mv, h0, h | ⟨hp, e, ha, h⟩ | ⟨hp, b, e, ha, h⟩ | ⟨hp, e, ha, h⟩ | ⟨hp, e, ha, h⟩⟩ <;> rw [h]
  · refine ⟨.ended ?_ ?_ ?_ ?_ ?_ ?_ (.inl ?_), ?_⟩
    all_goals first
      | (simp [ret, State.finish, State.rspWord]; done)
      | (constructor <;> simp [ret])
  · exact ⟨.quiet (by simp) (by simp) (by simp) (by simp) (.inl (by simp)) (by simp), by constructor <;> simp⟩
  · refine ⟨.readFailed _ e (hn.trans (by simp only [gainRequest, h0, hp]; rfl)) ha ?_ ?_ ?_ ?_ ?_ ?_ ?_, ?_⟩
    all_goals first
      | (simp [gotRead, Env.noteRead, raise, State.finish, State.rspWord]; done)
      | (constructor <;> simp [gotRead])
  · refine ⟨.read _ b e (hn.trans (by simp only [gainRequest, h0, hp]; rfl)) ha ?_ ?_ ?_ ?_ ?_, ?_⟩
    all_goals first
      | (simp [gotRead]; done)
      | (constructor <;> simp [gotRead])
  · refine ⟨.writeFailed false _ _ e (hn.trans (by simp only [gainRequest, h0, hp]; rfl)) (by simp) ha
      ?_ ?_ ?_ ?_ ?_ ?_ ?_, ?_⟩
    all_goals first
      | (simp [wrote, raise, State.finish, State.rspWord, moveFrame]; done)
      | (constructor <;> simp [wrote])
  · refine ⟨.wrote false _ _ e (hn.trans (by simp only [gainRequest, h0, hp]; rfl)) (by simp) ha ?_ ?_ ?_ ?_ ?_, ?_⟩
    all_goals by_cases hl : 2 * (gainMoves u.cfg (channelOf u.op)).length ≤ u.idx.toNat + 1
    all_goals simp only [hl, if_true, if_false]
    all_goals first
      | (simp [wrote, ret, State.finish, State.rspWord, ho, moveFrame]; done)
      | (constructor <;> simp [wrote, ret])

/-! ### Landing (R14) -/

/-- What an effect becomes once it has landed: the operation has ended; the transaction waits; a transition without a
transaction is complete; or the transaction is done and what follows it is due. -/
theorem land_cases (v : State) {u t : State} (hb : u.busy = true) (h : BusyEffect u t) :
    (t.busy = false ∧ land v u t = t) ∨
    (t.busy = true ∧ t.trace = u.trace ∧ (requestOf u).isSome = true ∧ land v u t = v) ∨
    (t.busy = true ∧ t.trace = u.trace ∧ requestOf u = none ∧ land v u t = t) ∨
    (t.busy = true ∧ (∃ x, t.trace = u.trace ++ [x]) ∧ land v u t = hold (entry u) t) := by
  cases ht : t.busy with
  | false => exact .inl ⟨rfl, land_ended v u t ht⟩
  | true =>
    have same : t.trace = u.trace →
        (t.trace = u.trace ∧ (requestOf u).isSome = true ∧ land v u t = v) ∨
        (t.trace = u.trace ∧ requestOf u = none ∧ land v u t = t) := by
      intro htr
      cases hr : requestOf u with
      | none => exact .inr ⟨htr, rfl, land_quiet v u t hr htr⟩
      | some r => exact .inl ⟨htr, rfl, land_waits v u t hb ht (by rw [hr]; rfl) htr⟩
    have more : ∀ x, t.trace = u.trace ++ [x] →
        (∃ x, t.trace = u.trace ++ [x]) ∧ land v u t = hold (entry u) t :=
      fun x hx => ⟨⟨x, hx⟩, land_held v u t hb ht x hx⟩
    cases h with
    | quiet trace => rcases same trace with h | h <;> simp [h]
    | wrote _ _ _ _ _ _ _ trace => exact .inr (.inr (.inr ⟨rfl, more _ trace⟩))
    | writeFailed _ _ _ _ _ _ _ _ _ _ busy => rw [ht] at busy; cases busy
    | read _ _ _ _ _ trace => exact .inr (.inr (.inr ⟨rfl, more _ trace⟩))
    | readFailed _ _ _ _ _ _ _ busy => rw [ht] at busy; cases busy
    | ended _ _ _ busy => rw [ht] at busy; cases busy

/-- What is due, done: the state the transaction's rule made, with an empty list after it complete (R14). -/
theorem settle_hold (w t : State) (hd : t.due = none) (hs : t.inStart = true ∨ t.st = w.st) :
    settle (hold w t) = skipEmpty t := by
  have hst : (if t.inStart then t.st else w.st) = t.st := by
    rcases hs with h | h
    · rw [if_pos h]
    · rw [h, ite_self]
  have hw : writeDue ⟨t.st, t.idx, t.tmp, t.pollCnt, t.entered⟩ (hold w t) =
      { t with st := if t.inStart then t.st else w.st, due := none } := rfl
  rw [settle_of_due (hold_due w t), hw, hst, ← hd]

/-- Everything a step that answers a next state can do, by what the block was doing. -/
theorem step_effect {s t : State} (h : step s = .next t) :
    s.cfg.wellFormed = true ∧
    ((rstHigh s = true ∧ t = applyRst (intake s)) ∨
     (rstHigh s = false ∧ ∃ u, u = settle (intake s) ∧
      ((s.busy = true ∧ ∃ t0, BusyEffect u t0 ∧ SameLatches u t0 ∧ t = land (intake s) u t0) ∨
       (s.busy = true ∧ 5 < s.op.toNat ∧ t = land (intake s) u u) ∨
       (s.busy = false ∧ s.cmdIn = [] ∧ t = u) ∨
       (s.busy = false ∧ ∃ w rest, s.cmdIn = w :: rest ∧
         ((cmdRsv w ≠ 0#4 ∧ t = acceptBadWord w { u with cmdIn := rest }) ∨
          (cmdRsv w = 0#4 ∧ exec (opInstr (cmdOp w) (cmdLeft w) (cmdRight w) (cmdMute w))
            { u with cmdIn := rest } = .next t)))))) := by
  obtain ⟨hw, ⟨hr, h⟩ | ⟨hr, u, rfl, hx⟩⟩ := step_next_cases s h
  · exact ⟨hw, .inl ⟨hr, h⟩⟩
  · refine ⟨hw, .inr ⟨hr, _, rfl, ?_⟩⟩
    rcases hx with ⟨hb, ho, t0, hx, h⟩ | ⟨hb, ho, h5, h⟩ | ⟨hb, ho, -, h⟩ | ⟨hb, hc, hx⟩ | ⟨hb, w, rest, hc, hx⟩
    · obtain ⟨h1, h2⟩ := transition_effect _ _ hb ho hx
      exact .inl ⟨by simpa using hb, t0, h1, h2, h⟩
    · exact .inr (.inl ⟨by simpa using hb, by simpa using h5, h⟩)
    · obtain ⟨h1, h2⟩ := gainBody_effect _ hb ho
      exact .inl ⟨by simpa using hb, _, h1, h2, h⟩
    · exact .inr (.inr (.inl ⟨by simpa using hb, by simpa using hc, hx⟩))
    · exact .inr (.inr (.inr ⟨by simpa using hb, w, rest, by simpa using hc, hx⟩))

end Sys2Proof.Machine
end

