-- ==== Sys2Proof/Tests/Slice0.lean ====
section
/-! SUPPORT. Tests: the well-formedness checks refuse, words decode, one or two single steps per instruction with the
numbers of 95_test_vectors.md (the vector is named in the docstring), and for every statement with hypotheses values
that meet them. -/

-- One theorem after the other: a thread for each would not fit the memory limit.
set_option Elab.async false

namespace Sys2Proof.Tests

open Sys2Proof.Machine

/-- `CFG_EX` (95_test_vectors.md 1.1). -/
abbrev cfgEx : Config := Config.cfgEx

/-- The state after reset with the answers a transport gives. -/
def scripted (l : List BusAnswer) : State :=
  { State.reset with env := { Env.unknown with transport := .script l } }

/-- A START in progress at `st`, with the entry actions still to do. -/
def starting (st : SeqState) (l : List BusAnswer) : State := { scripted l with st := st, busy := true }

/-- A `Ready` idle block. -/
def readyBlock (l : List BusAnswer) : State := { scripted l with st := .ready }

/-- `SET_LINE_IN_GAIN 5, 5, 0` in progress. -/
def gaining (l : List BusAnswer) : State :=
  { readyBlock l with busy := true, op := 1, leftDb := 0x40A00000#32, rightDb := 0x40A00000#32 }

/-- What a next state shows. -/
def after {α : Type} (f : State → α) (o : Host.Outcome State Fault Refusal) : Option α :=
  match o with
  | .next t => some (f t)
  | .fault _ => none
  | .refused _ => none

/-! ### Well-formedness: one ill-formed term for each check -/

theorem test_cfgEx_wellFormed : cfgEx.wellFormed = true := by decide +kernel

theorem test_devAddr_refused : Config.wellFormed { cfgEx with devAddr := 0x80#8 } = false := by decide +kernel

theorem test_pollMax_refused : Config.wellFormed { cfgEx with pollMax := 0 } = false := by decide +kernel

theorem test_lockMask_refused : Config.wellFormed { cfgEx with lockMask := 0#8 } = false := by decide +kernel

theorem test_clksel_refused : Config.wellFormed { cfgEx with clkselPll := 0x01#8 } = false := by decide +kernel

theorem test_range_refused :
    Config.wellFormed { cfgEx with auxIn := { cfgEx.auxIn with minDb := 4 } } = false ∧
    Config.wellFormed { cfgEx with auxIn := { cfgEx.auxIn with step := 0 } } = false := by decide +kernel

theorem test_field_refused :
    Config.wellFormed { cfgEx with auxIn := { cfgEx.auxIn with left := { cfgEx.auxIn.left with codeLsb := 7 } } } =
      false := by decide +kernel

theorem test_enable_refused :
    Config.wellFormed { cfgEx with auxIn := { cfgEx.auxIn with left := { cfgEx.auxIn.left with enMask := 0#8 } } } =
      false ∧
    Config.wellFormed { cfgEx with auxIn := { cfgEx.auxIn with left := { cfgEx.auxIn.left with enMask := 1#8 } } } =
      false := by decide +kernel

theorem test_code_refused :
    Config.wellFormed { cfgEx with auxIn := { cfgEx.auxIn with zeroCode := 1 } } = false ∧
    Config.wellFormed { cfgEx with auxIn := { cfgEx.auxIn with zeroCode := 3 } } = false := by decide +kernel

theorem test_owners_refused :
    Config.wellFormed { cfgEx with auxIn := { cfgEx.auxIn with right := { cfgEx.auxIn.right with codeLsb := 1 } } } =
      false := by decide +kernel

theorem test_payload_refused :
    Config.wellFormed { cfgEx with pllCfg := { cfgEx.pllCfg with r48k := .ok [⟨0x4002#16, []⟩] } } = false := by
  decide +kernel

theorem test_count_refused : Config.wellFormed { cfgEx with pollMax := 65536 } = false := by decide +kernel

theorem test_instr_refused :
    ∀ i ∈ [Instr.encode 0 [], .send 0 [], .clamp .micIn .nan, .qcode .micIn .nan, .quantize .micIn .nan .nan,
      .pack .micIn .left 0 0 false, .pack .auxIn .left 0 4 false, .rmw 0 (.pack .auxIn .left 4 false),
      .rmw 0 (.packBoth .auxIn 0 4 false), .setGain .micIn .nan .nan false], i.wellFormed cfgEx = false := by
  decide +kernel

/-! ### Decoding, words written out from R85, R88 and R96 -/

theorem test_decode_start : decodeTableWord 72 0x000000000000000000 = some (.start 0 0 false) := by decide +kernel

/-- F1: `SET_LINE_IN_GAIN 5, 5, 0`. -/
theorem test_decode_setLineInGain :
    decodeTableWord 72 0x0140A0000040A00000 = some (.setLineInGain 0x40A00000 0x40A00000 false) := by decide +kernel

/-- P6: `SET_AUX_IN_GAIN 3, -6, 1`. -/
theorem test_decode_setAuxInGain :
    decodeTableWord 72 0x0A40400000C0C00000 = some (.setAuxInGain 0x40400000 0xC0C00000 true) := by decide +kernel

theorem test_decode_setMicInGain : decodeTableWord 72 0x030000000000000000 = some (.setMicInGain 0 0 false) := by
  decide +kernel

/-- F: `SET_LINE_OUT_GAIN -100, 6, 1`. -/
theorem test_decode_setLineOutGain :
    decodeTableWord 72 0x0CC2C8000040C00000 = some (.setLineOutGain 0xC2C80000 0x40C00000 true) := by decide +kernel

theorem test_decode_setHpOutGain : decodeTableWord 72 0x050000000000000000 = some (.setHpOutGain 0 0 false) := by
  decide +kernel

theorem test_decode_reserved :
    decodeTableWord 72 0x060000000000000000 = some (.reservedOp6 0 0 false) ∧
    decodeTableWord 72 0x0F0000000000000000 = some (.reservedOp7 0 0 true) ∧
    decodeTableWord 72 0x110000000000000000 = none := by decide +kernel

theorem test_decode_states :
    decodeTableWord 8 0 = some .t1 ∧ decodeTableWord 8 1 = some .t2 ∧ decodeTableWord 8 2 = some .t3 ∧
    decodeTableWord 8 3 = some .t4 ∧ decodeTableWord 8 4 = some .t5 ∧ decodeTableWord 8 5 = some .t6 ∧
    decodeTableWord 8 6 = some .ready ∧ decodeTableWord 8 7 = none := by decide +kernel

/-! ### The Command Encoder -/

/-- E2. -/
theorem test_encode :
    after State.res (exec (.encode 0x4002 [0x00, 0x7D, 0x00, 0x0C, 0x23, 0x01]) State.reset) =
      some (.frame [0x40, 0x02, 0x00, 0x7D, 0x00, 0x0C, 0x23, 0x01]) := by decide +kernel

/-- E4. -/
theorem test_send :
    after (fun t => (t.res, t.idx, t.trace)) (exec (.send 0x4019 [0x13]) (scripted [.ok 0])) =
      some (.ok, 1, [.write 0x38 [0x40, 0x19, 0x13] true]) := by decide +kernel

theorem test_send_fail :
    after (fun t => (t.res, t.idx, t.trace)) (exec (.send 0x4019 [0x13]) (scripted [.fail])) =
      some (.fail, 0, [.write 0x38 [0x40, 0x19, 0x13] false]) := by decide +kernel

/-- E5, its second transaction. -/
theorem test_sendTable_fail :
    after (fun t => (t.res, t.trace))
      (again (.sendTable [⟨0x4019, 0x13⟩, ⟨0x401C, 0x21⟩, ⟨0x402A, 0x03⟩]) 1
        { scripted [.fail] with call := some (.sendTable [⟨0x4019, 0x13⟩, ⟨0x401C, 0x21⟩, ⟨0x402A, 0x03⟩], 1) }) =
      some (.failAt 1, [.write 0x38 [0x40, 0x1C, 0x21] false]) := by decide +kernel

/-- R112: the first row goes out first, whatever `IDX` holds. -/
theorem test_sendTable_first :
    after (fun t => (t.res, t.idx, t.trace))
      (exec (.sendTable [⟨0x4019, 0x13⟩, ⟨0x401C, 0x21⟩]) { scripted [.ok 0] with idx := 7 }) =
      some (.pending, 8, [.write 0x38 [0x40, 0x19, 0x13] true]) := by decide +kernel

/-- E9. -/
theorem test_sendTable_empty :
    after (fun t => (t.res, t.trace)) (exec (.sendTable []) State.reset) = some (.ok, []) := by decide +kernel

/-- E11. -/
theorem test_readReg :
    after (fun t => (t.res, t.idx, t.trace)) (exec (.readReg 0x4002) (scripted [.ok 0x01])) =
      some (.okByte 0x01, 1, [.read 0x38 0x4002 (some 0x01)]) := by decide +kernel

/-! ### The Gain Quantizer -/

/-- R132's examples. -/
theorem test_clamp :
    after State.res (exec (.clamp .lineIn (.fin (-40))) State.reset) = some (.db (-12)) ∧
    after State.res (exec (.clamp .lineIn (.fin 5)) State.reset) = some (.db 5) := by decide +kernel

theorem test_clamp_special :
    after State.res (exec (.clamp .lineIn .posInf) State.reset) = some (.db (mkRat 141 4)) ∧
    after State.res (exec (.clamp .lineIn .nan) State.reset) = some (.db (-12)) := by decide +kernel

/-- The `RTN` vectors. -/
theorem test_rtn :
    [mkRat 1 2, mkRat (-1) 2, mkRat 3 2, mkRat (-3) 2, mkRat 5 2, mkRat 51 100, mkRat (-51) 100, mkRat 20 3, -47].map
      (fun q => after State.res (exec (.rtn q) State.reset)) =
      [0, 0, 1, -1, 2, 1, -1, 7, -47].map (fun z => some (.int z)) := by decide +kernel

/-- The `QCODE` vectors of `LINE_IN`: 5, a tie on each side, the neighbours of a tie, the ends, NaN. -/
theorem test_qcode :
    [0x40A00000#32, 0x3F900000#32, 0xBF900000#32, 0x3EC00001#32, 0xBEC00001#32, 0xC1400000#32, 0xC13A0000#32,
      0x420D0000#32, 0x7F7FFFFF#32, 0xFF800000#32, 0xFFC00001#32].map
      (fun d => after State.res (exec (.qcode .lineIn (f32Value d)) State.reset)) =
      [23, 17, 15, 17, 15, 0, 1, 63, 63, 0, 0].map (fun z => some (.int z)) := by decide +kernel

/-- `QUANTIZE(LINE_IN, 5, -40)`. -/
theorem test_quantize :
    after (fun t => (t.lcode, t.rcode)) (exec (.quantize .lineIn (.fin 5) (.fin (-40))) State.reset) =
      some (23, 0) := by decide +kernel

/-- The `PACK` vectors: mute, every owned bit set, an old code replaced. -/
theorem test_pack :
    [(0x02#8, 23#8, false), (0x02#8, 23#8, true), (0xFF#8, 0#8, true), (0x00#8, 63#8, false)].map
      (fun x => after State.res (exec (.pack .lineIn .left x.1 x.2.1 x.2.2) State.reset)) =
      [0x5F#8, 0x5E#8, 0x02#8, 0xFD#8].map (fun b => some (.byte b)) := by decide +kernel

/-- The merged byte of the two sides of `AUX_IN`. -/
theorem test_pack_shared :
    after State.res (exec (.pack .auxIn .left 0xC0 3 false) State.reset) = some (.byte 0xD3) ∧
    after State.res (exec (.pack .auxIn .right 0xD3 0 false) State.reset) = some (.byte 0xF3) := by decide +kernel

/-- Q1, its read. -/
theorem test_rmw_read :
    after (fun t => (t.res, t.tmp, t.trace)) (exec (.rmw 0x400E (.pack .lineIn .left 23 false)) (scripted [.ok 0x02])) =
      some (.pending, 0x02, [.read 0x38 0x400E (some 0x02)]) := by decide +kernel

/-- Q1, its write. -/
theorem test_rmw_write :
    after (fun t => (t.res, t.trace))
      (exec (.rmw 0x400E (.pack .lineIn .left 23 false)) { scripted [.ok 0] with
        call := some (.rmw 0x400E (.pack .lineIn .left 23 false), 1), tmp := 0x02 }) =
      some (.ok, [.write 0x38 [0x40, 0x0E, 0x5F] true]) := by decide +kernel

/-- The right read of `LINE_IN`, and the shared write of `AUX_IN`: 3 dB and -6 dB over `0xC0`. -/
theorem test_setGain_right :
    after (fun t => (t.idx, t.trace))
      (exec (.setGain .lineIn (.fin 5) (.fin 5) false)
        { scripted [.ok 0] with idx := 2, call := some (.setGain .lineIn (.fin 5) (.fin 5) false, 2) }) =
      some (3, [.read 0x38 0x400F (some 0)]) := by decide +kernel

theorem test_setGain_shared :
    after (fun t => (t.res, t.trace))
      (exec (.setGain .auxIn (.fin 3) (.fin (-6)) false)
        { scripted [.ok 0] with
          call := some (.setGain .auxIn (.fin 3) (.fin (-6)) false, 1), tmp := 0xC0, lcode := 3, rcode := 0 }) =
      some (.ok, [.write 0x38 [0x40, 0x0B, 0xF3] true]) := by decide +kernel

/-! ### The sequencer -/

/-- `START` after a failure (R169). -/
theorem test_start :
    after (fun t => (t.st, t.failed, t.busy, t.mute))
      (exec (.start 1 2 true) { State.reset with st := .pllLocked, failed := true }) =
      some (.reset, false, true, true) := by decide +kernel

theorem test_t1 :
    after (fun t => (t.st, t.trace)) (exec .t1 (starting .reset [.ok 0])) =
      some (.clockSourceDefault, [.write 0x38 [0x40, 0x00, 0x01] true]) := by decide +kernel

theorem test_t1_fail :
    after (fun t => (t.st, t.failed, t.responses)) (exec .t1 (starting .reset [.fail])) =
      some (.reset, true, [0x00000801]) := by decide +kernel

theorem test_t2 :
    after (fun t => (t.st, t.trace)) (exec .t2 (starting .clockSourceDefault [.ok 0])) =
      some (.pllConfiguring, [.write 0x38 [0x40, 0x02, 0x00, 0x7D, 0x00, 0x0C, 0x23, 0x01] true]) := by decide +kernel

/-- P8. -/
theorem test_t2_boardError :
    after (fun t => (t.trace, t.responses))
      (exec .t2 { starting .clockSourceDefault [.ok 0] with cfg := { cfgEx with rate := .r44k1 } }) =
      some ([], [0x00000902]) := by decide +kernel

/-- P3, the last of three polls: `RSP = 0x00030A03`. -/
theorem test_t3_timeout :
    after (fun t => (t.st, t.responses))
      (exec .t3 { starting .pllConfiguring [.ok 0x01] with entered := true, idx := 2, pollCnt := 2 }) =
      some (.pllConfiguring, [0x00030A03]) := by decide +kernel

theorem test_t3_locked :
    after (fun t => (t.st, t.trace)) (exec .t3 (starting .pllConfiguring [.ok 0x02])) =
      some (.pllLocked, [.read 0x38 0x4002 (some 0x02)]) := by decide +kernel

theorem test_t4 :
    after (fun t => (t.st, t.trace)) (exec .t4 (starting .pllLocked [.ok 0])) =
      some (.clockSourcePll, [.write 0x38 [0x40, 0x00, 0x0F] true]) := by decide +kernel

/-- P2: row 1 fails, `RSP = 0x00010C01`. -/
theorem test_t5_fail :
    after (fun t => (t.trace, t.responses))
      (exec .t5 { starting .clockSourcePll [.fail] with entered := true, idx := 1 }) =
      some ([.write 0x38 [0x40, 0x1C, 0x21] false], [0x00010C01]) := by decide +kernel

theorem test_t5_last :
    after (fun t => (t.st, t.trace)) (exec .t5 { starting .clockSourcePll [.ok 0] with entered := true, idx := 2 }) =
      some (.boardConfiguring, [.write 0x38 [0x40, 0x2A, 0x03] true]) := by decide +kernel

/-- P1: the fifth transaction of T6 is the read of `AUX_IN`, its write is `0xFA`. -/
theorem test_t6_shared :
    after State.trace
      (exec .t6 { starting .boardConfiguring [.ok 0] with
        entered := true, idx := 5, tmp := 0xC0, ch := .auxIn, lcode := 2, rcode := 2 }) =
      some [.write 0x38 [0x40, 0x0B, 0xFA] true] := by decide +kernel

theorem test_t6_last :
    after (fun t => (t.st, t.trace))
      (exec .t6 { starting .boardConfiguring [.ok 0] with
        entered := true, idx := 13, ch := .hpOut, lcode := 57, rcode := 57 }) =
      some (.ready, [.write 0x38 [0x40, 0x24, 0xE6] true]) := by decide +kernel

theorem test_ready :
    after (fun t => (t.busy, t.st, t.responses)) (exec .ready (starting .ready [])) =
      some (false, .ready, [0x00000600]) := by decide +kernel

/-! ### The facade -/

theorem test_setLineInGain_accept :
    after (fun t => (t.busy, t.op, t.trace)) (exec (.setLineInGain 1 2 true) (readyBlock [])) =
      some (true, 1, []) := by decide +kernel

/-- P4, the first read of command 1. -/
theorem test_setLineInGain_read :
    after (fun t => (t.lcode, t.trace))
      (exec (.setLineInGain 0x40A00000#32 0x40A00000#32 false) (gaining [.ok 0x43])) =
      some (23, [.read 0x38 0x400E (some 0x43)]) := by decide +kernel

/-- P5: `NotReady` before bring-up; the acceptance clears `IDX` (R35). -/
theorem test_setAuxInGain_notReady :
    after (fun t => (t.trace, t.responses, t.idx))
      (exec (.setAuxInGain 0x40400000 0xC0C00000 false) { State.reset with idx := 5 }) =
      some ([], [0x00000004], 0) := by decide +kernel

/-- P5: no microphone, `IllegalCommand`. -/
theorem test_setMicInGain_illegal :
    after (fun t => (t.trace, t.responses)) (exec (.setMicInGain 0 0 false) State.reset) =
      some ([], [0x00000005]) := by decide +kernel

theorem test_setLineOutGain_read :
    after State.trace
      (exec (.setLineOutGain 0 0 true) { readyBlock [.ok 1] with busy := true, op := 4, mute := true }) =
      some [.read 0x38 0x4025 (some 1)] := by decide +kernel

/-- The last write of `SET_HP_OUT_GAIN 0, 0, 0` ends it. -/
theorem test_setHpOutGain_last :
    after (fun t => (t.busy, t.trace, t.responses))
      (exec (.setHpOutGain 0 0 false)
        { readyBlock [.ok 0] with busy := true, op := 5, idx := 3, lcode := 57, rcode := 57 }) =
      some (false, [.write 0x38 [0x40, 0x24, 0xE6] true], [0x00000600]) := by decide +kernel

theorem test_reservedOp6 :
    after (fun t => (t.busy, t.responses)) (exec (.reservedOp6 0 0 false) State.reset) = some (false, [5]) := by
  decide +kernel

theorem test_reservedOp7_held :
    after State.responses (exec (.reservedOp7 0 0 false) (starting .reset [])) = some [] := by decide +kernel

theorem test_raise :
    after (fun t => (t.busy, t.failed, t.responses)) (exec (.raise .busError 2) (starting .pllConfiguring [])) =
      some (false, true, [0x00020A01]) := by decide +kernel

/-! ### The machine -/

/-- R89: a word with a reserved bit set. -/
theorem test_step_reservedBits :
    after (fun t => (t.cmdIn, t.responses)) (step { State.reset with cmdIn := [0x800000000000000000] }) =
      some ([], [0x00000005]) := by decide +kernel

/-- R14: after T1's write `ST` and `IDX` stay until the step of the next transaction, the first of T2, the last one here;
after that one they are T2's. -/
theorem test_step_due :
    after (fun t => (t.st, t.idx, (settle t).st, (settle t).idx)) (step (starting .reset [.ok 0])) =
      some (.reset, 0, .clockSourceDefault, 1) ∧
    after (fun t => (t.st, t.idx, (settle t).st)) (Host.Core.run core 2 (starting .reset [.ok 0, .ok 0])) =
      some (.clockSourceDefault, 0, .pllConfiguring) := by decide +kernel

/-- R14: the last not-locked poll has no transaction after it: the timeout comes with it. -/
theorem test_step_lastPoll :
    after (fun t => (t.busy, t.pollCnt, t.responses))
      (step { starting .pllConfiguring [.ok 0x01] with entered := true, idx := 2, pollCnt := 2 }) =
      some (false, 3, [0x00030A03]) := by decide +kernel

theorem test_step_fetchWord :
    after (fun t => (t.busy, t.st)) (step (State.reset.withFetchWord 72 0)) = some (true, .reset) ∧
    after (fun t => (t.busy, t.responses)) (step (State.reset.withFetchWord 8 6)) =
      some (false, [0x00000600]) := by decide +kernel

/-! ### Values that meet the hypotheses of the statements, at the boundaries where clauses meet -/

theorem test_hyp_DecodeOfEncode :
    encode .t3 = some (.st 2) ∧ encode (.start 1 2 true) = some (.cmd (cmdWord 0 true 0 1 2)) := ⟨rfl, rfl⟩

theorem test_hyp_EncodeOfDecode :
    decode (.cmd 0x050000000000000000#72) = .ok (.setHpOutGain 0 0 false) ∧ decode (.st 6#3) = .ok .ready := by
  decide +kernel

theorem test_hyp_SelectedByMatchAndMask :
    ∀ n < 8, (BitVec.ofNat 72 (n * 2 ^ 64 + 2 ^ 67 + 5)) &&& 0xF70000000000000000#72 = BitVec.ofNat 72 (n * 2 ^ 64) := by
  decide +kernel

theorem test_hyp_EncodeMakesFrame : ([0#8] : List Byte) ≠ [] := by decide

/-- The exponents 0, 1, 254 and 255. -/
theorem test_hyp_BinaryOperandValue :
    (BitVec.extractLsb' 23 8 0x007FFFFF#32).toNat = 0 ∧ (BitVec.extractLsb' 23 8 0x00800000#32).toNat = 1 ∧
    (BitVec.extractLsb' 23 8 0xFF7FFFFF#32).toNat = 254 ∧ (BitVec.extractLsb' 23 8 0xFF800000#32).toNat = 255 ∧
    (BitVec.extractLsb' 0 23 0xFF800000#32).toNat = 0 ∧ (BitVec.extractLsb' 0 23 0x7FC00000#32).toNat ≠ 0 := by
  decide +kernel

theorem test_hyp_ClampSaturates :
    cfgEx.wellFormed = true ∧ cfgEx.inUse .lineIn = true ∧ (-40 : Rat) < cfgEx.lineIn.minDb ∧
    cfgEx.lineIn.maxDb < (90 : Rat) ∧ cfgEx.lineIn.minDb ≤ (-12 : Rat) ∧ (-12 : Rat) ≤ cfgEx.lineIn.maxDb ∧
    cfgEx.lineIn.minDb ≤ mkRat 141 4 ∧ mkRat 141 4 ≤ cfgEx.lineIn.maxDb := by decide +kernel

theorem test_hyp_RoundsTiesTowardZero :
    (1 / 2 : Rat) < mkRat 51 100 - (mkRat 51 100).floor ∧ mkRat 1 2 - (mkRat 1 2).floor ≤ (1 / 2 : Rat) ∧
    mkRat 1 2 ≤ mkRat 51 100 := by decide +kernel

theorem test_hyp_CodeOfDecibels :
    cfgEx.lineIn.minDb ≤ 0 ∧ 0 ≤ cfgEx.lineIn.maxDb ∧ 0 < cfgEx.lineIn.step ∧
    cfgEx.lineIn.minDb ≤ cfgEx.lineIn.dbOf 0 ∧ cfgEx.lineIn.dbOf 63 ≤ cfgEx.lineIn.maxDb := by decide +kernel

theorem test_hyp_SaturationAndRange :
    extLt .negInf (.fin cfgEx.lineIn.minDb) ∧ extLt (.fin cfgEx.lineIn.maxDb) .posInf ∧
    extLe (.fin cfgEx.lineIn.maxDb) (.fin cfgEx.lineIn.maxDb) ∧ ¬ extLe .nan .posInf := by
  simp [extLt, extLe]

/-- The ties next to the two ends of the range of `LINE_IN`. -/
theorem test_hyp_SpecialOperandWords :
    cfgEx.lineIn.minDb ≤ cfgEx.lineIn.dbOf (cfgEx.lineIn.zeroCode + 46) + cfgEx.lineIn.step / 2 ∧
    cfgEx.lineIn.dbOf (cfgEx.lineIn.zeroCode + 46) + cfgEx.lineIn.step / 2 ≤ cfgEx.lineIn.maxDb ∧
    cfgEx.lineIn.minDb ≤ cfgEx.lineIn.dbOf (cfgEx.lineIn.zeroCode - 15) - cfgEx.lineIn.step / 2 ∧
    cfgEx.lineIn.dbOf (cfgEx.lineIn.zeroCode - 15) - cfgEx.lineIn.step / 2 ≤ cfgEx.lineIn.maxDb ∧
    BitVec.extractLsb' 23 8 0xFFC00001#32 = 255#8 ∧ BitVec.extractLsb' 0 23 0xFFC00001#32 ≠ 0#23 := by
  decide +kernel

/-- QUANTIZE, PACK (the largest code of each width) and the shared register of `AUX_IN`. -/
theorem test_hyp_QuantizeAndPack :
    cfgEx.wellFormed = true ∧ cfgEx.inUse .lineIn = true ∧ (63#8).toNat < 2 ^ cfgEx.lineIn.codeWidth ∧
    cfgEx.inUse .auxIn = true ∧ (3#8).toNat < 2 ^ cfgEx.auxIn.codeWidth ∧
    cfgEx.regAddr .auxIn .left = cfgEx.regAddr .auxIn .right ∧
    0xA5#8 &&& ~~~ cfgEx.ownMask .lineIn .right = 0x58#8 &&& ~~~ cfgEx.ownMask .lineIn .right := by decide +kernel

/-- A script with no answer, a failure, a byte, and what the register holds, known and unknown. -/
theorem test_hyp_ScriptedTransport :
    (scripted []).env.transport = .script [] ∧ (scripted [.fail]).env.transport = .script (.fail :: []) ∧
    (scripted [.ok 7, .held]).env.transport = .script (.ok 7 :: [.held]) ∧
    (scripted []).env.codecKnown = true ∧ (scripted []).env.peek 5 = none ∧
    Env.peek { (scripted [.held]).env with regs := [(5, 9#8)] } 5 = some 9#8 := by decide +kernel

/-- The mock bus: an ordinal in the fail set and one outside it, both lengths of payload, both kinds of address. -/
theorem test_hyp_MockBusAnswers :
    let e : Env := { Env.unknown with transport := .mock [1, 3] [5] }
    e.transport = .mock [1, 3] [5] ∧ 5 ∈ [5] ∧ 4 ∉ [5] ∧ 2 ≤ ([1#8, 2#8] : List Byte).length ∧
    (0x4000#16 : Addr) ≠ 0x4002#16 := by decide +kernel

theorem test_hyp_SendIsOneWrite :
    (∃ e, (scripted [.ok 0]).answerWrite (encodeFrame 0xFFFF [1, 2]) = some (true, e)) ∧
    (∃ e, (scripted [.fail]).answerWrite (encodeFrame 0xFFFF [1, 2]) = some (false, e)) ∧
    (scripted []).answerWrite (encodeFrame 0xFFFF [1, 2]) = none := ⟨⟨_, rfl⟩, ⟨_, rfl⟩, rfl⟩

theorem test_hyp_ReadRegIsOneRead :
    (∃ e, (scripted [.ok 7]).answerRead 0xFFFF = some (some 7, e)) ∧
    (∃ e, (scripted [.fail]).answerRead 0xFFFF = some (none, e)) ∧ (scripted []).answerRead 0xFFFF = none :=
  ⟨⟨_, rfl⟩, ⟨_, rfl⟩, rfl⟩

/-- At the last row, with each answer, and past it. -/
theorem test_hyp_SendTableSendsRow :
    ([⟨1, 2⟩] : List Row)[(scripted []).callAt (.sendTable [⟨1, 2⟩])]? = some ⟨1, 2⟩ ∧
    ([] : List Row).length ≤ (scripted []).callAt (.sendTable []) ∧
    State.callAt (.sendTable [⟨1, 2⟩, ⟨3, 4⟩]) { scripted [] with call := some (.sendTable [⟨1, 2⟩, ⟨3, 4⟩], 1) } = 1 ∧
    (∃ e, (scripted [.ok 0]).answerWrite (encodeFrame 1 [2]) = some (true, e)) ∧
    (∃ e, (scripted [.fail]).answerWrite (encodeFrame 1 [2]) = some (false, e)) ∧
    (scripted []).answerWrite (encodeFrame 1 [2]) = none :=
  ⟨rfl, Nat.le_refl 0, by decide +kernel, ⟨_, rfl⟩, ⟨_, rfl⟩, rfl⟩

/-- A row that fails first, a row that fails last, none. -/
theorem test_hyp_TableAbortsAtFirstFailure :
    State.callAt (.sendTable [⟨1, 2⟩, ⟨3, 4⟩]) { scripted [.fail] with idx := 0xFFFF } = 0 ∧ (0 : Nat) < ([⟨1, 2⟩, ⟨3, 4⟩] : List Row).length ∧
    (scripted [.fail]).env.transport = .script ([] ++ .fail :: []) ∧
    (scripted [.held, .fail]).env.transport = .script ([.held] ++ .fail :: []) ∧
    (scripted [.held, .ok 0]).env.transport = .script ([.held, .ok 0] ++ []) ∧
    (∀ x ∈ [BusAnswer.held, .ok 0], x ≠ .fail) := by decide +kernel

theorem test_hyp_RmwReadsThenWrites :
    (ByteFn.pack .lineIn .left 63 true).wellFormed cfgEx = true ∧
    (scripted []).callAt (.rmw 5 (.pack .lineIn .left 63 true)) % 2 = 0 ∧
    State.callAt (.rmw 5 (.pack .lineIn .left 63 true))
      { scripted [] with call := some (.rmw 5 (.pack .lineIn .left 63 true), 1) } % 2 = 1 ∧
    (∃ e, (scripted [.ok 7]).answerRead 5 = some (some 7, e)) ∧ (∃ e, (scripted [.fail]).answerRead 5 = some (none, e)) ∧
    (∃ e, (scripted [.ok 0]).answerWrite
      (encodeFrame 5 [(ByteFn.pack .lineIn .left 63 true).apply cfgEx 0]) = some (true, e)) ∧
    (∃ e, (scripted [.fail]).answerWrite
      (encodeFrame 5 [(ByteFn.pack .lineIn .left 63 true).apply cfgEx 0]) = some (false, e)) :=
  ⟨by decide +kernel, by decide +kernel, by decide +kernel, ⟨_, rfl⟩, ⟨_, rfl⟩, ⟨_, rfl⟩, ⟨_, rfl⟩⟩

/-- One side, and both sides of the shared register of `AUX_IN`. -/
theorem test_hyp_RmwKeepsForeignBitsOfCodec :
    let e : Env := { (scripted [.held, .ok 0]).env with regs := [(0x400B, 0xA5#8)] }
    (∀ i, State.reset.callAt i = 0) ∧ e.codecKnown = true ∧ e.peek (0x400B#16).toNat = some 0xA5#8 ∧ e.transport = .script (.held :: .ok 0 :: []) ∧
    cfgEx.wellFormed = true ∧ cfgEx.inUse .auxIn = true ∧ (3#8).toNat < 2 ^ (cfgEx.chan .auxIn).codeWidth ∧
    cfgEx.regAddr .auxIn .left = cfgEx.regAddr .auxIn .right :=
  ⟨fun _ => rfl, by decide +kernel⟩

/-- The two phases of a move, on separate registers and on a shared one. -/
theorem test_hyp_SetGainTransactions :
    cfgEx.inUse .lineIn = true ∧ cfgEx.regAddr .lineIn .left ≠ cfgEx.regAddr .lineIn .right ∧
    cfgEx.regAddr .auxIn .left = cfgEx.regAddr .auxIn .right ∧
    (let s : State := { scripted [] with call := some (.setGain .lineIn (.fin 5) .nan false, 3) }
     ([⟨.lineIn, .left⟩, ⟨.lineIn, .right⟩] : List GainMove)[s.callAt (.setGain .lineIn (.fin 5) .nan false) / 2]? =
       some ⟨.lineIn, .right⟩ ∧ s.callAt (.setGain .lineIn (.fin 5) .nan false) % 2 = 1 ∧
     ([⟨.auxIn, .both⟩] : List GainMove)[s.callAt (.setGain .auxIn .nan .nan true) / 2]? = some ⟨.auxIn, .both⟩ ∧
     s.callAt (.setGain .auxIn .nan .nan true) % 2 = 0) := by decide +kernel

theorem test_hyp_SetGainTrace :
    (moveEntries cfgEx (.fin 5) .nan false (gainMoves cfgEx .lineIn) [2, 3]).length = 4 ∧
    (moveEntries cfgEx (.fin 5) .nan false (gainMoves cfgEx .auxIn) [2]).length = 2 ∧
    State.callAt (.setGain .lineIn (.fin 5) .nan false) { scripted [] with idx := 9 } = 0 ∧
    (scripted [.ok 2, .ok 0, .ok 3, .ok 0]).env.transport = .script (moveAnswers [2, 3] ++ []) ∧
    (scripted [.ok 2, .ok 0, .ok 3, .fail]).env.transport = .script ((moveAnswers [2, 3]).take 3 ++ .fail :: []) ∧
    (scripted [.held, .ok 0, .held, .ok 0]).env.transport =
      .script ((([2, 3] : List Byte).flatMap fun _ => [.held, .ok 0]) ++ []) ∧
    (scripted [.held, .ok 0, .held, .ok 0]).env.codecKnown = true ∧ cfgEx.wellFormed = true ∧
    Env.peek { (scripted [.held, .ok 0, .held, .ok 0]).env with regs := [(0x400F, 0x58#8)] }
      (cfgEx.regAddr .lineIn .right).toNat = some 0x58#8 := by
  decide +kernel

theorem test_hyp_OperandsOutsideDomainRefused :
    cfgEx.hasMic = false ∧
    Config.pllCommands { cfgEx with pllCfg := { cfgEx.pllCfg with r48k := .ok [⟨1, []⟩] } } = .ok [⟨1, []⟩] ∧
    ([⟨1, []⟩] : List RegisterCommand)[(starting .clockSourceDefault []).pos.toNat]? = some ⟨1, []⟩ := by
  decide +kernel

/-- An idle block, not `Ready` and `Ready`; the codec fresh, not fresh, and the mock. -/
theorem test_hyp_CommandsAccepted :
    State.reset.busy = false ∧ State.reset.st ≠ .ready ∧ (readyBlock []).busy = false ∧ (readyBlock []).st = .ready ∧
    cfgEx.hasMic = false ∧ Config.hasMic { cfgEx with hasMic := true } = true ∧
    State.reset.env.isMock = false ∧ State.reset.env.codecFresh = false ∧
    Env.codecFresh { State.reset.env with codecFresh := true } = true ∧
    Env.isMock { State.reset.env with transport := .mock [] [] } = true := by decide +kernel

/-- A `Ready` idle block with a microphone, and one that is not `Ready`. -/
theorem test_hyp_MicrophoneCommands :
    let s : State := { readyBlock [] with cfg := { cfgEx with hasMic := true } }
    s.busy = false ∧ s.st = .ready ∧ s.cfg.hasMic = true ∧
    (let u : State := { s with st := .pllLocked }; u.busy = false ∧ u.st ≠ .ready ∧ u.cfg.hasMic = true) := by
  decide +kernel

theorem test_hyp_IllegalCommandsAnswered :
    let s : State := { State.reset with cmdIn := [cmdWord 8 true 7 1 2] }
    (8#4) ≠ 0 ∧ s.busy = false ∧ s.cfg.wellFormed = true ∧ s.env.stimuli = [] ∧
    s.cmdIn = cmdWord 8 true 7 1 2 :: [] := by decide +kernel

/-- A word offered to a busy block and to an idle one. -/
theorem test_hyp_CommandsHeldWhileBusy :
    after (fun t => (t.cmdIn, t.op)) (step { gaining [.ok 0] with cmdIn := [0] }) = some ([0], 1) ∧
    after (fun t => (t.cmdIn, t.op)) (step { readyBlock [] with cmdIn := [0x060000000000000000] }) = some ([], 6) ∧
    rstHigh (gaining [.ok 0]) = false := by decide +kernel

theorem test_hyp_GainCommandTransactions :
    (gaining []).busy = true ∧ (gaining []).op = 1 ∧
    (gainMoves (gaining []).cfg .lineIn)[(gaining []).idx.toNat / 2]? = some ⟨.lineIn, .left⟩ ∧
    (gainMoves cfgEx .auxIn)[(1#16).toNat / 2]? = some ⟨.auxIn, .both⟩ ∧
    (∃ e, (gaining [.ok 2]).answerRead 0x400E = some (some 2, e)) ∧
    (∃ e, (gaining [.fail]).answerRead 0x400E = some (none, e)) ∧
    (∃ e, State.answerWrite { gaining [.ok 0] with idx := 3 } (encodeFrame 0x400F [0x5F]) = some (true, e)) ∧
    (∃ e, State.answerWrite { gaining [.fail] with idx := 3 } (encodeFrame 0x400F [0x5F]) = some (false, e)) :=
  ⟨rfl, rfl, rfl, rfl, ⟨_, rfl⟩, ⟨_, rfl⟩, ⟨_, rfl⟩, ⟨_, rfl⟩⟩

/-- `SET_HP_OUT_GAIN`, the last opcode, answered, and failing at its last transaction. -/
theorem test_hyp_GainCommandRun :
    let s : State := { readyBlock (moveAnswers [2, 3]) with cmdIn := [cmdWord 0 true 5 1 2] }
    s.cfg.wellFormed = true ∧ s.busy = false ∧ s.st = .ready ∧ s.env.stimuli = [] ∧ s.cfg.inUse (channelOf 5) = true ∧
    s.cmdIn = cmdWord 0 true 5 1 2 :: [] ∧ ([2, 3] : List Byte).length = (gainMoves s.cfg (channelOf 5)).length ∧
    s.env.transport = .script (moveAnswers [2, 3] ++ []) ∧
    3 < (moveEntries s.cfg (f32Value 1) (f32Value 2) true (gainMoves s.cfg (channelOf 5)) [2, 3]).length ∧
    (readyBlock [.ok 2, .ok 0, .ok 3, .fail]).env.transport = .script ((moveAnswers [2, 3]).take 3 ++ .fail :: []) := by
  decide +kernel

/-- T1 and T4, before and after their entry actions. -/
theorem test_hyp_ClockSourceWrites :
    (starting .reset []).entered = false ∧ State.idx { starting .pllLocked [] with entered := true } = 0 ∧
    (∃ e, (starting .reset [.ok 0]).answerWrite [0x40, 0x00, 0x01] = some (true, e)) ∧
    (∃ e, (starting .pllLocked [.fail]).answerWrite [0x40, 0x00, 0x0F] = some (false, e)) :=
  ⟨rfl, rfl, ⟨_, rfl⟩, ⟨_, rfl⟩⟩

/-- The last command of T2, no command, `BoardError`. -/
theorem test_hyp_PllConfigurationWrites :
    (∃ cmds k, cfgEx.pllCommands = .ok cmds ∧ cmds[(starting .clockSourceDefault []).pos.toNat]? = some k ∧
      k.payload ≠ [] ∧ cmds.length ≤ (starting .clockSourceDefault []).pos.toNat + 1 ∧
      (∃ e, (starting .clockSourceDefault [.ok 0]).answerWrite (encodeFrame k.addr k.payload) = some (true, e)) ∧
      (∃ e, (starting .clockSourceDefault [.fail]).answerWrite (encodeFrame k.addr k.payload) = some (false, e))) ∧
    Config.pllCommands { cfgEx with rate := .r96k } = .boardError ∧
    Config.pllCommands { cfgEx with pllCfg := { cfgEx.pllCfg with r48k := .ok [] } } = .ok [] :=
  ⟨⟨_, _, rfl, rfl, by decide, by decide, ⟨_, rfl⟩, ⟨_, rfl⟩⟩, rfl, rfl⟩

/-- A locked byte, a not-locked one, the last poll and the one before it. -/
theorem test_hyp_LockPolling :
    0x03#8 &&& cfgEx.lockMask = cfgEx.lockMask ∧ 0xFD#8 &&& cfgEx.lockMask ≠ cfgEx.lockMask ∧
    (2#16 + 1).toNat = cfgEx.pollMax ∧ (1#16 + 1).toNat ≠ cfgEx.pollMax ∧
    (∃ e, (starting .pllConfiguring [.ok 3]).answerRead cfgEx.lockAddr = some (some 3, e)) ∧
    (∃ e, (starting .pllConfiguring [.fail]).answerRead cfgEx.lockAddr = some (none, e)) :=
  ⟨by decide, by decide, rfl, by decide, ⟨_, rfl⟩, ⟨_, rfl⟩⟩

/-- The last row, no row, `BoardError`. -/
theorem test_hyp_BoardTableReplay :
    let s : State := { starting .clockSourcePll [.ok 0] with entered := true, idx := 2 }
    (∃ rows row, cfgEx.boardTable = .ok rows ∧ rows[s.pos.toNat]? = some row ∧ rows.length ≤ s.pos.toNat + 1 ∧
      (∃ e, s.answerWrite (encodeFrame row.addr [row.value]) = some (true, e)) ∧
      (∃ e, (starting .clockSourcePll [.fail]).answerWrite (encodeFrame row.addr [row.value]) = some (false, e))) ∧
    Config.boardTable { cfgEx with boardTable := .boardError } = .boardError ∧
    Config.boardTable { cfgEx with boardTable := .ok [] } = .ok [] :=
  ⟨⟨_, _, rfl, rfl, by decide, ⟨_, rfl⟩, ⟨_, rfl⟩⟩, rfl, rfl⟩

/-- The first read and the last write of T6, a right-hand move and a shared one. -/
theorem test_hyp_DefaultGains :
    let moves := gainMoves cfgEx .lineIn ++ gainMoves cfgEx .auxIn ++ gainMoves cfgEx .lineOut ++ gainMoves cfgEx .hpOut
    moves[(starting .boardConfiguring []).pos.toNat / 2]? = some ⟨.lineIn, .left⟩ ∧
    moves[(13#16).toNat / 2]? = some ⟨.hpOut, .right⟩ ∧ moves[(4#16).toNat / 2]? = some ⟨.auxIn, .both⟩ ∧
    2 * moves.length ≤ (13#16).toNat + 1 ∧
    (∃ e, (starting .boardConfiguring [.ok 2]).answerRead 0x400E = some (some 2, e)) ∧
    (∃ e, (starting .boardConfiguring [.fail]).answerRead 0x400E = some (none, e)) ∧
    (∃ e, (starting .boardConfiguring [.ok 0]).answerWrite (encodeFrame 0x4024 [0xE6]) = some (true, e)) ∧
    (∃ e, (starting .boardConfiguring [.fail]).answerWrite (encodeFrame 0x4024 [0xE6]) = some (false, e)) :=
  ⟨rfl, rfl, rfl, by decide +kernel, ⟨_, rfl⟩, ⟨_, rfl⟩, ⟨_, rfl⟩, ⟨_, rfl⟩⟩

/-- A START about to decode `Ready` meets the invariant. -/
theorem test_hyp_ReadyEndsStart :
    (starting .ready [.ok 0]).Inv ∧ (starting .ready [.ok 0]).busy = true ∧ (starting .ready [.ok 0]).op = 0#3 :=
  ⟨⟨by constructor <;> decide +kernel, by constructor <;> decide +kernel, by decide +kernel⟩, rfl, rfl⟩

/-- An idle block with a word, one without, a START, a gain command. -/
theorem test_hyp_StepRunsFetchedInstruction :
    cfgEx.wellFormed = true ∧ State.reset.env.stimuli = [] ∧ State.reset.busy = false ∧ State.reset.cmdIn = [] ∧
    State.cmdIn { State.reset with cmdIn := [0x050000000000000000#72] } = 0x050000000000000000#72 :: [] ∧
    decode (.cmd 0x050000000000000000#72) = .ok (.setHpOutGain 0 0 false) ∧
    decode (.st (starting .boardConfiguring []).st.code) = .ok .t6 ∧ (gaining []).op ≠ 0#3 ∧
    decode (.cmd (cmdWord 0 (gaining []).mute (gaining []).op (gaining []).leftDb (gaining []).rightDb)) =
      .ok (.setLineInGain 0x40A00000#32 0x40A00000#32 false) := by decide +kernel

theorem test_hyp_IllFormedConfigurationRefused :
    State.reset.cfg = Config.cfgEx ∧ step { State.reset with cfg := { cfgEx with pollMax := 0 } } =
      .refused .configIllFormed := ⟨rfl, rfl⟩

/-- `rst` with a write in flight, with a read in flight and in an idle block. -/
theorem test_hyp_ResetAbandonsOperation :
    cfgEx.wellFormed = true ∧
    Env.stimuli { (starting .reset []).env with stimuli := [⟨true, []⟩] } = ⟨true, []⟩ :: [] ∧
    nextRequest (starting .reset []) = some (.write false (encodeFrame 0x4000 [0x01])) ∧
    nextRequest (starting .pllConfiguring []) = some (.read 0x4002) ∧ nextRequest State.reset = none ∧
    (starting .reset []).env.isMock = false ∧
    Env.stimuli { (starting .reset []).env with stimuli := [⟨true, [.clientWrite 5 [9]]⟩] } =
      ⟨true, [.clientWrite 5 [9]]⟩ :: [] := by decide +kernel

theorem test_hyp_StepKeepsInvariant :
    (gaining [.ok 2]).Inv ∧ after (fun t => (t.idx, (settle t).idx)) (step (gaining [.ok 2])) = some (0, 1) :=
  ⟨⟨by constructor <;> decide +kernel, by constructor <;> decide +kernel, by decide +kernel⟩, by decide +kernel⟩

/-- The step that writes `CLKSEL_PLL`, after a locked read, with a change the codec makes in the same step; and the same
with another client that comes after the response. -/
theorem test_hyp_ClockHazardNeverMarked :
    let s : State := { starting .pllLocked [.ok 0] with
      env := { (scripted [.ok 0]).env with lockSeen := true, stimuli := [⟨false, [.codecChange 0x4002 none]⟩] } }
    let u : State := { s with env := { s.env with stimuli := [⟨false, []⟩, ⟨false, [.clientWrite 0x4002 [1]]⟩] } }
    s.Inv ∧ s.LockInv ∧ s.env.exclusive = true ∧ s.env.noCodecReset = true ∧ profileClean s.cfg = true ∧
      after State.trace (step s) = some [.write 0x38 [0x40, 0x00, 0x0F] true] ∧
      u.StartLocked ∧ u.excl = true ∧ u.env.exclusive = false ∧ u.inStart = true ∧
      after State.trace (step u) = some [.write 0x38 [0x40, 0x00, 0x0F] true] :=
  ⟨⟨by constructor <;> decide +kernel, by constructor <;> decide +kernel, by decide +kernel⟩, ⟨rfl, by decide +kernel⟩, by decide +kernel, by decide +kernel, by decide +kernel,
    by decide +kernel, fun _ _ _ _ => rfl, by decide +kernel, by decide +kernel, rfl, by decide +kernel⟩

theorem test_hyp_ClockSwitchFollowsLock :
    let s : State := { starting .pllLocked [.ok 0] with trace := [.read 0x38 0x4002 (some 3)] }
    s.SwitchAfterLock ∧ s.inStart = true ∧ s.st = .pllLocked ∧ rstHigh s = false ∧
      after State.trace (step s) = some [.read 0x38 0x4002 (some 3), .write 0x38 [0x40, 0x00, 0x0F] true] :=
  ⟨fun _ _ => ⟨_, rfl, by decide +kernel⟩, rfl, rfl, rfl, by decide +kernel⟩

/-- A step with a transaction, one without, one that fails and one that waits. -/
theorem test_hyp_OneTransactionAStep :
    after State.trace (step (starting .pllConfiguring [.ok 1])) = some [.read 0x38 0x4002 (some 1)] ∧
    after State.trace (step (starting .ready [])) = some [] ∧
    after (fun t => (t.trace, t.busy)) (step (starting .pllConfiguring [.fail])) =
      some ([.read 0x38 0x4002 none], false) ∧
    after id (step (starting .pllConfiguring [])) = some (starting .pllConfiguring []) ∧
    nextRequest (starting .pllConfiguring []) ≠ none := by decide +kernel

theorem test_hyp_TraceWellFramed :
    (∀ x ∈ [TraceEntry.write 0x38 [0x40, 0x00, 0x01] true, .read 0x38 0x4002 none], wellFramed cfgEx x = true) ∧
    after State.busy (step (starting .pllConfiguring [.ok 1])) = some true := by decide +kernel

/-- An operation that goes on, one that ends, and a command that is answered at once. -/
theorem test_hyp_OneResponseAnOperation :
    after State.responses (step (gaining [.ok 2])) = some [] ∧
    after State.responses (step (gaining [.fail])) = some [0x00000601] ∧
    after State.responses (step { State.reset with cmdIn := [0x010000000000000000] }) = some [4] := by decide +kernel

/-- A gain command in progress and a gain command accepted. -/
theorem test_hyp_StAndFailedWrittenByStartOnly :
    (gaining [.ok 2]).inStart = false ∧ rstHigh (gaining [.ok 2]) = false ∧
    after State.st (step (gaining [.ok 2])) = some .ready ∧
    0x050000000000000000#72 &&& 0xF70000000000000000#72 ≠ 0#72 := by decide +kernel

/-- A START on plan at T1, and at its third poll. -/
theorem test_hyp_BringUpFollowsPlan :
    (settle (starting .reset [.ok 0])).OnPlan [] ∧ (starting .reset [.ok 0]).Inv ∧
    State.OnPlan [] (settle { starting .pllConfiguring [.ok 1] with
      entered := true, idx := 2, pollCnt := 2,
      trace := bringUpTrace cfgEx [1, 1] 2 [] 2 .pllConfiguring }) ∧
    State.Inv { starting .pllConfiguring [.ok 1] with
      entered := true, idx := 2, pollCnt := 2,
      trace := bringUpTrace cfgEx [1, 1] 2 [] 2 .pllConfiguring } := by
  refine ⟨⟨[], 2, List.replicate 7 0, ⟨by decide, by decide, by decide, rfl⟩, rfl, by decide, fun h => by cases h⟩,
    ⟨by constructor <;> decide +kernel, by constructor <;> decide +kernel, by decide +kernel⟩,
    ⟨[1, 1], 2, List.replicate 7 0, ⟨by decide, by decide, by decide, rfl⟩, by decide +kernel, fun _ => rfl,
      fun h => by cases h⟩,
    ⟨by constructor <;> decide +kernel, by constructor <;> decide +kernel, by decide +kernel⟩⟩

theorem test_hyp_OperationEnds :
    (starting .ready [.ok 0]).Inv ∧ (starting .ready [.ok 0]).busy = true ∧
    (starting .ready [.ok 0]).env.answersFor (settle (starting .ready [.ok 0])).stepsLeft ∧
    (gaining (List.replicate 4 (.ok 0))).env.answersFor (settle (gaining (List.replicate 4 (.ok 0)))).stepsLeft :=
  ⟨⟨by constructor <;> decide +kernel, by constructor <;> decide +kernel, by decide +kernel⟩, rfl, Nat.le_of_ble_eq_true rfl, Nat.le_of_ble_eq_true rfl⟩

theorem test_hyp_UnansweredTransactionWaits :
    cfgEx.wellFormed = true ∧ (gaining []).env.stimuli = [] ∧ (gaining []).env.transport = .script [] ∧
    nextRequest (gaining []) = some (.read 0x400E) ∧
    nextRequest (starting .pllConfiguring []) = some (.read 0x4002) := by decide +kernel

/-- A client's write in the mock and in a codec that is known; the codec's reset; a step with an event in an idle block,
in a START and in a gain command. -/
theorem test_hyp_OtherAgentsReachCodecOnly :
    (let s (u : State) : State := { u with env := { u.env with stimuli := [⟨false, [.clientWrite 0x400E [9]]⟩] } }
     after (fun t => (settle t).idx) (step (s (gaining [.held]))) = some 1 ∧
     after State.trace (step (s (gaining [.held]))) = some [.read 0x38 0x400E (some 9)] ∧
     after (fun t => (settle t).st) (step (s (starting .reset [.ok 0]))) = some .clockSourceDefault ∧
     after State.busy (step (s State.reset)) = some false) ∧
    Env.stimuli { Env.unknown with stimuli := [⟨false, [.clientWrite 5 [9]]⟩] } = ⟨false, [.clientWrite 5 [9]]⟩ :: [] ∧
    Env.unknown.codecKnown = true ∧ Env.unknown.isMock = false ∧
    Env.stimuli { Env.unknown with stimuli := [⟨false, [.codecReset]⟩] } = ⟨false, [.codecReset]⟩ :: [] := by
  decide +kernel

end Sys2Proof.Tests
end

section
/-! SUPPORT. The conditions of R11 as propositions, and the refusal of a configuration that fails one (O45). -/

namespace Sys2Proof

/-! ### The conditions of R11, one by one -/

section Conditions

variable (cfg : Config)

theorem Config.mem_channels (c : Channel) : c ∈ cfg.channels ↔ (c = .micIn → cfg.hasMic = true) := by
  cases c <;> simp [Config.channels, Config.inUse]

theorem Config.mem_places (x : Channel × Side) : x ∈ cfg.places ↔ (x.1 = .micIn → cfg.hasMic = true) := by
  obtain ⟨c, sd⟩ := x
  cases sd <;> simp [Config.places, Config.mem_channels]

/-- A claim about both sides of a channel, as the lists of `Config.fieldsFit` and `Config.enablesOk` say it. -/
theorem all_sides_iff (p : Side → Bool) : [Side.left, Side.right].all p = true ↔ ∀ sd, p sd = true := by
  constructor
  · intro h sd
    cases sd <;> simp_all
  · intro h
    simp [h]

theorem Config.rangesOk_iff : cfg.rangesOk = true ↔
    ∀ c, (c = .micIn → cfg.hasMic = true) → (cfg.chan c).minDb ≤ (cfg.chan c).maxDb ∧ 0 < (cfg.chan c).step := by
  simp only [Config.rangesOk, List.all_eq_true, Config.mem_channels, Bool.and_eq_true, decide_eq_true_eq]

theorem Config.fieldsFit_iff : cfg.fieldsFit = true ↔ ∀ c sd, (c = .micIn → cfg.hasMic = true) →
    1 ≤ (cfg.chan c).codeWidth ∧ cfg.codeLsb c sd + (cfg.chan c).codeWidth ≤ 8 := by
  simp only [Config.fieldsFit, List.all_eq_true (l := cfg.channels), Config.mem_channels, Bool.and_eq_true,
    all_sides_iff, decide_eq_true_eq]
  exact ⟨fun h c sd hc => ⟨(h c hc).1, (h c hc).2 sd⟩, fun h c hc => ⟨(h c .left hc).1, fun sd => (h c sd hc).2⟩⟩

theorem Config.enablesOk_iff : cfg.enablesOk = true ↔ ∀ c sd, (c = .micIn → cfg.hasMic = true) →
    cfg.fieldMask c sd &&& cfg.enMask c sd = 0#8 ∧ cfg.enMask c sd ≠ 0#8 := by
  simp only [Config.enablesOk, List.all_eq_true (l := cfg.channels), Config.mem_channels, Bool.and_eq_true,
    all_sides_iff, beq_iff_eq, bne_iff_ne]
  exact ⟨fun h c sd hc => h c hc sd, fun h c hc sd => h c sd hc⟩

theorem Config.codesOk_iff : cfg.codesOk = true ↔ ∀ c, (c = .micIn → cfg.hasMic = true) →
    0 ≤ (cfg.chan c).minCode ∧ (cfg.chan c).minCode ≤ (cfg.chan c).maxCode ∧
      (cfg.chan c).maxCode < 2 ^ (cfg.chan c).codeWidth := by
  simp only [Config.codesOk, List.all_eq_true, Config.mem_channels, Bool.and_eq_true, decide_eq_true_eq, and_assoc]

theorem Config.ownersDisjoint_iff : cfg.ownersDisjoint = true ↔ ∀ c sd c' sd', (c = .micIn → cfg.hasMic = true) →
    (c' = .micIn → cfg.hasMic = true) → (c, sd) ≠ (c', sd') → cfg.regAddr c sd = cfg.regAddr c' sd' →
    cfg.ownMask c sd &&& cfg.ownMask c' sd' = 0#8 := by
  simp only [Config.ownersDisjoint, List.all_eq_true, Config.mem_places, Bool.or_eq_true, beq_iff_eq, bne_iff_ne]
  constructor
  · intro h c sd c' sd' hc hc' hne ha
    rcases h (c, sd) hc (c', sd') hc' with (heq | hna) | hd
    · exact absurd heq hne
    · exact absurd ha hna
    · exact hd
  · intro h x hx y hy
    by_cases heq : x = y
    · exact .inl (.inl heq)
    · by_cases ha : cfg.regAddr x.1 x.2 = cfg.regAddr y.1 y.2
      · exact .inr (h x.1 x.2 y.1 y.2 hx hy heq ha)
      · exact .inl (.inr ha)

theorem Config.payloadsOk_iff : cfg.payloadsOk = true ↔ ∀ k ∈ cfg.pllCommands.entries, k.payload ≠ [] := by
  simp [Config.payloadsOk]

theorem Config.countsOk_iff : cfg.countsOk = true ↔
    cfg.pollMax < 2 ^ 16 ∧ cfg.pllCommands.entries.length < 2 ^ 16 ∧ cfg.boardTable.entries.length < 2 ^ 16 := by
  simp only [Config.countsOk, Bool.and_eq_true, decide_eq_true_eq, and_assoc]

/-- Well-formedness as R11 lists it, condition (1) to condition (11). -/
theorem Config.wellFormed_iff : cfg.wellFormed = true ↔
    cfg.devAddr.toNat ≤ 127 ∧ 1 ≤ cfg.pollMax ∧ cfg.lockMask ≠ 0#8 ∧ cfg.clkselDefault ≠ cfg.clkselPll ∧
      cfg.rangesOk = true ∧ cfg.fieldsFit = true ∧ cfg.enablesOk = true ∧ cfg.codesOk = true ∧
      cfg.ownersDisjoint = true ∧ cfg.payloadsOk = true ∧ cfg.countsOk = true := by
  simp only [Config.wellFormed, Config.devAddrOk, Config.pollMaxOk, Config.lockMaskOk, Config.clkselOk,
    Bool.and_eq_true, decide_eq_true_eq, bne_iff_ne, and_assoc]

end Conditions

end Sys2Proof

namespace Sys2Proof.Machine

/-! ### Only `step` refuses a configuration (log 19) -/

theorem withChannel_ne_configIllFormed (c : Channel) (s t : State) :
    withChannel c s t ≠ .refused .configIllFormed := by
  unfold withChannel
  split <;> simp

theorem execT2_ne_configIllFormed (s : State) : execT2 s ≠ .refused .configIllFormed := by
  rcases execT2_cases s with ⟨-, h⟩ | ⟨_, -, ⟨-, h⟩ | ⟨_, -, ⟨-, h⟩ | ⟨-, h | ⟨_, -, h⟩ | ⟨_, -, h⟩⟩⟩⟩ <;> simp [h]

theorem exec_ne_configIllFormed (i : Instr) (s : State) : exec i s ≠ .refused .configIllFormed := by
  cases i with
  | start => simp only [exec, execStart]; split <;> simp
  | setLineInGain | setAuxInGain | setMicInGain | setLineOutGain | setHpOutGain =>
    simp [exec, execSetLineInGain, execSetAuxInGain, execSetMicInGain, execSetLineOutGain, execSetHpOutGain]
  | reservedOp6 | reservedOp7 => simp [exec, execReservedOp6, execReservedOp7]
  | t1 | t4 | ready => simp [exec, execT1, execT4, execReady]
  | t2 => exact execT2_ne_configIllFormed s
  | t3 => rcases execT3_cases s with h | ⟨_, -, h⟩ | ⟨_, _, -, -, h⟩ | ⟨_, _, -, -, h⟩ <;> simp [exec, h]
  | t5 =>
    rcases execT5_cases s with ⟨-, h⟩ | ⟨_, -, ⟨-, h⟩ | ⟨_, -, h⟩ | ⟨_, _, -, ⟨-, h⟩ | ⟨-, h⟩⟩⟩ <;> simp [exec, h]
  | t6 => simp [exec, execT6_eq s _ rfl]
  | encode => simp only [exec, execEncode]; split <;> simp
  | send => simp only [exec, execSend]; (repeat' split) <;> simp
  | sendTable => simp [exec, execSendTable]
  | readReg => simp only [exec, execReadReg]; split <;> simp
  | clamp | qcode | quantize | pack | setGain => exact withChannel_ne_configIllFormed _ _ _
  | rtn | raise => simp [exec, execRtn, execRaise]
  | rmw a f =>
    cases f with
    | pack | packBoth => exact withChannel_ne_configIllFormed _ _ _
    | table => simp [exec, execRmw]

theorem landOutcome_eq_refused_iff (v u : State) (o : Host.Outcome State Fault Refusal) (r : Refusal) :
    landOutcome v u o = .refused r ↔ o = .refused r := by
  cases o <;> simp [landOutcome]

/-- A step refuses the configuration exactly when it is not well formed (R11). -/
theorem step_eq_configIllFormed_iff (s : State) :
    step s = .refused .configIllFormed ↔ s.cfg.wellFormed = false := by
  cases hw : s.cfg.wellFormed with
  | false => simp [step, hw]
  | true =>
    simp only [step, hw, Bool.not_true, Bool.false_eq_true, if_false, reduceCtorEq, iff_false]
    split
    · simp
    · cases fetch (settle (intake s)) with
      | idle => simp
      | run i => exact fun h => exec_ne_configIllFormed _ _ ((landOutcome_eq_refused_iff ..).mp h)
      | illegal w => simp

/-- Settles O45: `step` refuses exactly when `Config.wellFormed` is false, and that is R11's list. -/
theorem illFormedConfigurationRefused : Obligations.IllFormedConfigurationRefused := by
  intro cfg used own ok s hcfg
  have hok : cfg.wellFormed = true ↔ ok := by
    rw [Config.wellFormed_iff, Config.rangesOk_iff, Config.fieldsFit_iff, Config.enablesOk_iff, Config.codesOk_iff,
      Config.ownersDisjoint_iff, Config.payloadsOk_iff, Config.countsOk_iff]
    exact Iff.rfl
  rw [step_eq_configIllFormed_iff, hcfg, ← hok, Bool.not_eq_true]

end Sys2Proof.Machine
end
section
/-! SUPPORT. Which instruction a step runs, by what the block takes up (O44). -/

namespace Sys2Proof.Machine

variable {s : State} {w : BitVec 72} {rest : List (BitVec 72)} {i : Instr}

/-! ### The intake of a step without a stimulus -/

theorem intake_of_no_stimuli (h : s.env.stimuli = []) : intake s = s := by simp [intake, h]

theorem rstHigh_of_no_stimuli (h : s.env.stimuli = []) : rstHigh s = false := by simp [rstHigh, h]

/-! ### What the block takes up, by the word that decodes -/

theorem takeWord_of_busy (hb : s.busy = true) : takeWord s = s := by simp [takeWord, hb]

theorem takeWord_of_word (hb : s.busy = false) (hc : s.cmdIn = w :: rest) :
    takeWord s = { s with cmdIn := rest } := by simp [takeWord, hb, hc]

theorem fetch_of_word (hb : s.busy = false) (hc : s.cmdIn = w :: rest) : fetch s = fetchWord w := by
  simp [fetch, hb, hc]

theorem fetch_of_no_word (hb : s.busy = false) (hc : s.cmdIn = []) : fetch s = .idle := by simp [fetch, hb, hc]

theorem fetchWord_of_decode (h : decode (.cmd w) = .ok i) : fetchWord w = .run i := by simp [fetchWord, h]

theorem fetch_of_decode_st (hb : s.busy = true) (ho : s.op = 0#3) (h : decode (.st s.st.code) = .ok i) :
    fetch s = .run i := by simp [fetch, hb, ho, h]

theorem fetch_of_decode_latches (hb : s.busy = true) (ho : s.op ≠ 0#3)
    (h : decode (.cmd (cmdWord 0 s.mute s.op s.leftDb s.rightDb)) = .ok i) : fetch s = .run i := by
  simp only [fetch, hb, ho, if_true, if_false]
  exact fetchWord_of_decode h

/-! ### A step without `rst`, by what it takes up (R35, R96, R190) -/

theorem landOutcome_of_idle (v : State) {u : State} (hb : u.busy = false) (o : Host.Outcome State Fault Refusal) :
    landOutcome v u o = o := by
  cases o <;> simp [landOutcome, land_idle _ _ _ hb]

theorem step_of_no_word (hw : s.cfg.wellFormed = true) (hr : rstHigh s = false) (hb : s.busy = false)
    (hc : s.cmdIn = []) : step s = .next (settle (intake s)) := by
  have hf : fetch (settle (intake s)) = .idle := fetch_of_no_word (by simpa using hb) (by simpa using hc)
  simp [step, hw, hr, hf]

theorem step_of_word (hw : s.cfg.wellFormed = true) (hr : rstHigh s = false) (hb : s.busy = false)
    (hc : s.cmdIn = w :: rest) (hi : decode (.cmd w) = .ok i) :
    step s = exec i { settle (intake s) with cmdIn := rest } := by
  have hb' : (settle (intake s)).busy = false := by simpa using hb
  have hc' : (settle (intake s)).cmdIn = w :: rest := by simpa using hc
  rw [step_run s hw hr i ((fetch_of_word hb' hc').trans (fetchWord_of_decode hi)), landOutcome_of_idle _ hb',
    takeWord_of_word hb' hc']

theorem step_of_busy (hw : s.cfg.wellFormed = true) (hr : rstHigh s = false) (hb : s.busy = true)
    (hf : fetch (settle (intake s)) = .run i) :
    step s = landOutcome (intake s) (settle (intake s)) (exec i (settle (intake s))) := by
  rw [step_run s hw hr i hf, takeWord_of_busy (by simpa using hb)]

/-! ### What an operation in progress leaves to be written (R14) -/

/-- Executing an operation in progress leaves nothing due, and an operation that goes on either is a START or has not
written `ST`: the two facts that make `settle` undo `hold`. -/
structure Holdable (u t : State) : Prop where
  due : t.due = none
  st : t.busy = true → t.inStart = true ∨ t.st = u.st

/-- The two facts from what an execution can do. -/
theorem holdable_of_effect {u t : State} (hd : u.due = none) (ho : u.op = 0#3 ∨ t.st = u.st) (h : SameLatches u t) :
    Holdable u t := by
  refine ⟨h.due.trans hd, fun hb => ?_⟩
  rcases ho with ho | hst
  · exact .inl (by simp [State.inStart, hb, h.op, ho])
  · exact .inr hst

theorem holdable_transition {u t : State} (hb : u.busy = true) (ho : u.op = 0#3) (hd : u.due = none)
    (hx : exec (transitionOf u.st) u = .next t) : Holdable u t :=
  holdable_of_effect hd (.inl ho) (transition_effect u t hb ho hx).2

/-- A gain command writes no `ST` (R192). -/
theorem BusyEffect.st_of_gain {u t : State} (h : BusyEffect u t) (ho : u.op ≠ 0#3) : t.st = u.st := by
  cases h with
  | quiet _ _ _ _ st => exact st.resolve_right ho
  | wrote _ _ _ _ _ _ _ _ _ _ st => exact st.resolve_right ho
  | writeFailed _ _ _ _ _ _ _ _ _ _ _ _ st => exact st
  | read _ _ _ _ _ _ _ _ st => exact st.resolve_right ho
  | readFailed _ _ _ _ _ _ _ _ _ st => exact st
  | ended _ _ _ _ _ st => exact st

theorem holdable_gain {u t : State} (hb : u.busy = true) (ho : u.op ≠ 0#3) (hd : u.due = none)
    (hx : exec (opInstr u.op u.leftDb u.rightDb u.mute) u = .next t) : Holdable u t := by
  rw [exec_opInstr_busy u hb ho] at hx
  cases hx
  split
  · exact ⟨hd, fun _ => .inr rfl⟩
  · obtain ⟨heff, hsame⟩ := gainBody_effect u hb ho
    exact holdable_of_effect hd (.inr (heff.st_of_gain ho)) hsame

/-- How the answer `t` of the operation in progress lands, by whether the operation ends with it, its transaction is done
and another follows, its transaction is not answered, or it has none (R14, R69). -/
theorem land_settled (t : State) (hb : s.busy = true) (h : Holdable (settle s) t) :
    (t.busy = false → land s (settle s) t = t) ∧
    (t.busy = true → ∀ x, t.trace = s.trace ++ [x] → land s (settle s) t = hold (entry (settle s)) t ∧
      settle (hold (entry (settle s)) t) = skipEmpty t) ∧
    (t.busy = true → t.trace = s.trace → nextRequest s ≠ none → land s (settle s) t = s) ∧
    (t.busy = true → t.trace = s.trace → nextRequest s = none → land s (settle s) t = t) := by
  have hub : (settle s).busy = true := by simpa using hb
  refine ⟨land_ended _ _ _, fun ht x hx => ⟨?_, ?_⟩, fun ht htr hn => ?_, fun _ htr hn => ?_⟩
  · exact land_held _ _ _ hub ht x (by simpa using hx)
  · exact settle_hold _ _ h.due (by simpa using h.st ht)
  · exact land_waits _ _ _ hub ht (Option.isSome_iff_ne_none.mpr hn) (by simpa using htr)
  · exact land_quiet _ _ _ hn (by simpa using htr)

/-- Settles O44: `fetch` answers what the word decodes to, and `land_settled` says how the answer lands. -/
theorem stepRunsFetchedInstruction : Obligations.StepRunsFetchedInstruction := by
  intro s hw hs u runs
  have hin : intake s = s := intake_of_no_stimuli hs
  have hr : rstHigh s = false := rstHigh_of_no_stimuli hs
  have run : ∀ i, s.busy = true → fetch u = .run i → (∀ t, exec i u = .next t → Holdable u t) → runs i := by
    intro i hb hf hh
    have hstep : step s = landOutcome s u (exec i u) := by
      have h := step_of_busy hw hr hb (by rwa [hin])
      rwa [hin] at h
    refine ⟨hstep, fun t hx => ?_⟩
    rw [hstep, hx]
    simpa only [landOutcome, Host.Outcome.next.injEq] using land_settled t hb (hh t hx)
  refine ⟨fun w rest i hb hc hi => ?_, fun i hb ho hi => ?_, fun i hb ho hi => ?_, fun hb hc => ?_, settle_of_due_none⟩
  · have h := step_of_word hw hr hb hc hi
    rwa [hin] at h
  · have hub : u.busy = true := (settle_busy s).trans hb
    have huo : u.op = 0#3 := (settle_op s).trans ho
    have hf : fetch u = .run i := fetch_of_decode_st hub huo hi
    obtain rfl : i = transitionOf u.st := Fetched.run.inj (hf.symm.trans (fetch_start u hub huo))
    exact run _ hb hf fun t hx => holdable_transition hub huo (settle_due s) hx
  · have hub : u.busy = true := (settle_busy s).trans hb
    have huo : u.op ≠ 0#3 := by rwa [settle_op s]
    have hf : fetch u = .run i := fetch_of_decode_latches hub huo (by simpa [u] using hi)
    obtain rfl : i = opInstr u.op u.leftDb u.rightDb u.mute :=
      Fetched.run.inj (hf.symm.trans (fetch_gain u hub huo))
    exact run _ hb hf fun t hx => holdable_gain hub huo (settle_due s) hx
  · have h := step_of_no_word hw hr hb hc
    rwa [hin] at h

end Sys2Proof.Machine
end

section
/-! SUPPORT. The transaction of a step, and what the step leaves for the next one (O52). -/

namespace Sys2Proof.Machine

variable {s : State}

/-- What an operation in progress adds to the trace: nothing, or the entry of the transaction that is next (R35). -/
theorem BusyEffect.trace_cases {u t : State} (h : BusyEffect u t) :
    t.trace = u.trace ∨ ∃ r x, requestOf u = some r ∧ entryOf u.cfg r x ∧ t.trace = u.trace ++ [x] := by
  cases h with
  | quiet trace => exact .inl trace
  | wrote _ _ _ _ request _ _ trace => exact .inr ⟨_, _, request, ⟨_, rfl⟩, trace⟩
  | writeFailed _ _ _ _ request _ _ trace => exact .inr ⟨_, _, request, ⟨_, rfl⟩, trace⟩
  | read _ _ _ request _ trace => exact .inr ⟨_, _, request, ⟨_, rfl⟩, trace⟩
  | readFailed _ _ request _ trace => exact .inr ⟨_, _, request, ⟨_, rfl⟩, trace⟩
  | ended trace => exact .inl trace

theorem entry_env_with (s : State) (e : Env) : entry { s with env := e } = { entry s with env := e } := by
  have hi : State.inStart { s with env := e } = s.inStart := rfl
  simp only [entry, hi, enter, enterPoll]
  (repeat' split) <;> rfl

theorem entry_settle_intake (s : State) :
    entry (settle (intake s)) = { entry (settle s) with env := (intake s).env } := by
  rw [settle_intake, entry_env_with]

@[simp] theorem acceptIllegal_cfg (op : BitVec 3) (l r : F32) (m : Bool) (s : State) :
    (acceptIllegal op l r m s).cfg = s.cfg := by simp [acceptIllegal]

@[simp] theorem acceptIllegal_trace (op : BitVec 3) (l r : F32) (m : Bool) (s : State) :
    (acceptIllegal op l r m s).trace = s.trace := by simp [acceptIllegal]

/-- The acceptance of a command issues no transaction (R190). -/
theorem exec_opInstr_idle_frame {op : BitVec 3} {l r : F32} {m : Bool} {t : State} (hb : s.busy = false)
    (hx : exec (opInstr op l r m) s = .next t) : t.cfg = s.cfg ∧ t.trace = s.trace := by
  rw [exec_opInstr_idle s op l r m hb] at hx
  cases hx
  (repeat' split) <;> simp

/-- What O52 claims of a step from `s` to `t`. -/
structure OneTransaction (s t : State) : Prop where
  cfg : t.cfg = s.cfg
  trace : t.trace = s.trace ∨ (rstHigh s = false ∧
    ∃ r x, nextRequest (intake s) = some r ∧ entryOf s.cfg r x ∧ t.trace = s.trace ++ [x])
  deferred : t.trace ≠ s.trace → t.busy = true →
    t.st = (entry (settle s)).st ∧ t.idx = (entry (settle s)).idx ∧ t.tmp = (entry (settle s)).tmp ∧
      t.pollCnt = (entry (settle s)).pollCnt ∧ t.due ≠ none
  waits : t.trace = s.trace → rstHigh s = false → s.busy = true → t.busy = true → nextRequest s ≠ none → t = intake s

theorem OneTransaction.of_same_trace {t : State} (hc : t.cfg = s.cfg) (ht : t.trace = s.trace)
    (hw : rstHigh s = false → s.busy = true → t.busy = true → nextRequest s ≠ none → t = intake s) :
    OneTransaction s t :=
  ⟨hc, .inl ht, fun h => absurd ht h, fun _ => hw⟩

/-- An operation in progress, landed. -/
theorem oneTransaction_of_effect {t : State} (hr : rstHigh s = false) (hb : s.busy = true)
    (heff : BusyEffect (settle (intake s)) t) (hsame : SameLatches (settle (intake s)) t) :
    OneTransaction s (land (intake s) (settle (intake s)) t) := by
  have hcfg : t.cfg = s.cfg := by simpa using hsame.cfg
  have htrace : t.trace = s.trace ∨ (rstHigh s = false ∧
      ∃ r x, nextRequest (intake s) = some r ∧ entryOf s.cfg r x ∧ t.trace = s.trace ++ [x]) :=
    heff.trace_cases.imp (by simp) fun ⟨r, x, hreq, hent, htr⟩ =>
      ⟨hr, r, x, hreq, by simpa using hent, by simpa using htr⟩
  rcases land_cases (intake s) (by simpa using hb) heff with
    ⟨ht, hl⟩ | ⟨-, -, -, hl⟩ | ⟨-, htr, hn, hl⟩ | ⟨-, ⟨x, htr⟩, hl⟩ <;> rw [hl]
  case inl =>
    exact ⟨hcfg, htrace, fun _ h => absurd (ht.symm.trans h) (by decide),
      fun _ _ _ h => absurd (ht.symm.trans h) (by decide)⟩
  case inr.inl => exact .of_same_trace (by simp) (by simp) fun _ _ _ _ => rfl
  case inr.inr.inl =>
    refine .of_same_trace hcfg (by simpa using htr) fun _ _ _ hne => absurd ?_ hne
    rw [← nextRequest_intake]
    exact hn
  case inr.inr.inr =>
    refine ⟨hcfg, htrace, fun _ _ => ?_, fun h => ?_⟩
    · rw [entry_settle_intake]
      exact ⟨rfl, rfl, rfl, rfl, by simp⟩
    · simp [htr] at h

/-- A reserved opcode in the latches waits for ever (log 26). -/
theorem oneTransaction_of_reserved (hb : s.busy = true) :
    OneTransaction s (land (intake s) (settle (intake s)) (settle (intake s))) := by
  have hub : (settle (intake s)).busy = true := by simpa using hb
  cases hn : requestOf (settle (intake s)) with
  | none =>
    rw [land_quiet _ _ _ hn rfl]
    refine .of_same_trace (by simp) (by simp) fun _ _ _ hne => absurd ?_ hne
    rw [← nextRequest_intake]
    exact hn
  | some r =>
    rw [land_waits _ _ _ hub hub (by simp [hn]) rfl]
    exact .of_same_trace (by simp) (by simp) fun _ _ _ _ => rfl

theorem step_oneTransaction {t : State} (h : step s = .next t) : OneTransaction s t := by
  obtain ⟨-, ⟨hr, rfl⟩ | ⟨hr, u, rfl, ⟨hb, t0, heff, hsame, rfl⟩ | ⟨hb, -, rfl⟩ | ⟨hb, -, rfl⟩ |
    ⟨hb, w, rest, -, hx⟩⟩⟩ := step_effect h
  · exact .of_same_trace (intake_cfg s) (intake_trace s) fun h => absurd (hr.symm.trans h) (by decide)
  · exact oneTransaction_of_effect hr hb heff hsame
  · exact oneTransaction_of_reserved hb
  · exact .of_same_trace (by simp) (by simp) fun _ h => absurd (hb.symm.trans h) (by decide)
  · have hframe : t.cfg = s.cfg ∧ t.trace = s.trace := by
      rcases hx with ⟨-, rfl⟩ | ⟨-, hx⟩
      · simp [acceptBadWord]
      · simpa using exec_opInstr_idle_frame (by simpa using hb) hx
    exact .of_same_trace hframe.1 hframe.2 fun _ h => absurd (hb.symm.trans h) (by decide)

/-- Settles O52, by what the block was doing (`step_effect`). -/
theorem oneTransactionAStep : Obligations.OneTransactionAStep := by
  intro s t h
  obtain ⟨hcfg, htrace, hdeferred, hwaits⟩ := step_oneTransaction h
  exact ⟨hcfg, htrace, hdeferred, hwaits⟩

end Sys2Proof.Machine
end

section
/-! SUPPORT. What executing the operation in progress does to `ST`, the flags and the position, and that every step keeps
the invariant of the block (O48); the invariants at reset (O49). -/

namespace Sys2Proof.Machine

variable {s u t : State}

/-! ### The entry actions, by what the block is doing (R35; log 4) -/

theorem State.inStart_iff : s.inStart = true ↔ s.busy = true ∧ s.op = 0#3 := by simp [State.inStart]

theorem State.inStart_of_op_ne (ho : s.op ≠ 0#3) : s.inStart = false := by simp [State.inStart, ho]

theorem entry_of_not_start (h : s.inStart = false) : entry s = s := by simp [entry, h]

theorem entry_of_start (h : s.inStart = true) (hst : s.st ≠ .pllConfiguring) : entry s = enter s := by
  simp [entry, h, hst]

theorem entry_of_poll (h : s.inStart = true) (hst : s.st = .pllConfiguring) : entry s = enterPoll s := by
  simp [entry, h, hst]

theorem entry_idx_of_start (h : s.inStart = true) : (entry s).idx = if s.entered then s.idx else 0 := by
  by_cases hst : s.st = .pllConfiguring
  · rw [entry_of_poll h hst, enterPoll_idx]
  · rw [entry_of_start h hst, enter_idx]

/-! ### What an execution does to the registers -/

/-- The flags an operation that goes on leaves alone. -/
structure SameFlags (u t : State) : Prop where
  busy : t.busy = u.busy
  failed : t.failed = u.failed
  errKind : t.errKind = u.errKind
  errIndex : t.errIndex = u.errIndex

/-- The registers that say how far a transition or a gain command has come. -/
structure SamePlace (w t : State) : Prop where
  st : t.st = w.st
  idx : t.idx = w.idx
  entered : t.entered = w.entered
  pollCnt : t.pollCnt = w.pollCnt

/-- What executing the operation in progress in `u` writes of `ST`, the flags and the position: it ends; the transition is
complete; its transaction is not answered; another transaction of the same transition or gain command follows; or T3 has
one more not-locked read. -/
inductive RegisterEffect (u t : State) : Prop
  | ended (busy : t.busy = false) (st : t.st = u.st) (failed : t.failed = true → u.failed = true ∨ u.st ≠ .ready)
      (okIndex : t.errKind = .ok → t.errIndex = 0)
  | complete (op : u.op = 0#3) (flags : SameFlags u t) (entered : t.entered = false)
  | waits (request : (requestOf u).isSome = true) (flags : SameFlags u t) (place : SamePlace (entry u) t)
  | advances (flags : SameFlags u t) (st : t.st = u.st) (notPoll : u.op = 0#3 → u.st ≠ .pllConfiguring)
      (idx : t.idx = (entry u).idx + 1) (entered : t.entered = (entry u).entered)
      (bound : (entry u).idx.toNat + 1 < u.planLength)
  | polls (poll : u.st = .pllConfiguring) (flags : SameFlags u t) (st : t.st = u.st)
      (idx : t.idx = (entry u).idx + 1) (pollCnt : t.pollCnt = (entry u).pollCnt + 1)
      (entered : t.entered = (entry u).entered) (goesOn : ((entry u).pollCnt + 1).toNat ≠ u.cfg.pollMax)

/-- An error outside `Ready`, which may set `FAILED`, ends the operation. -/
theorem registerEffect_raise {v : State} (b : Bool) (e : ErrKind) (i : BitVec 16) (hst : v.st = u.st)
    (hf : v.failed = u.failed) (hb : b = true → u.st ≠ .ready) : RegisterEffect u (raise b e i v) := by
  refine .ended rfl hst (fun h => ?_) (fun h => by simp at h)
  rw [raise_failed, Bool.or_eq_true, hf] at h
  exact h.imp id hb

/-- `OK` ends the operation. -/
theorem registerEffect_ret {v : State} (hst : v.st = u.st) (hf : v.failed = u.failed) : RegisterEffect u (ret v) :=
  .ended rfl hst (fun h => .inl (hf.symm.trans h)) fun _ => rfl

/-- A transition of a START ends with `ST <- target`. -/
theorem registerEffect_goto {v : State} (target : SeqState) (ho : u.op = 0#3) (h : SameFlags u v) :
    RegisterEffect u (goto target v) :=
  .complete ho ⟨h.busy, h.failed, h.errKind, h.errIndex⟩ rfl

theorem sameFlags_enter (u : State) : SameFlags u (enter u) := by constructor <;> simp

theorem registerEffect_enter (h : u.inStart = true) (hst : u.st ≠ .pllConfiguring)
    (hn : (requestOf u).isSome = true) : RegisterEffect u (enter u) := by
  refine .waits hn (sameFlags_enter u) ?_
  rw [entry_of_start h hst]
  exact ⟨rfl, rfl, rfl, rfl⟩

/-! ### Each transition and the gain commands -/

theorem clkselStep_registers (v : Byte) (target : SeqState) (h : u.inStart = true) (hp : u.st ≠ .pllConfiguring)
    (hr : u.st ≠ .ready) (hn : (requestOf u).isSome = true) :
    RegisterEffect u (clkselStep v target (enter u)) := by
  have ho := (State.inStart_iff.mp h).2
  rcases clkselStep_cases (enter u) v target with hx | ⟨e, -, hx⟩ | ⟨e, -, hx⟩ <;> rw [hx]
  · exact registerEffect_enter h hp hn
  · exact registerEffect_raise _ _ _ (by simp) (by simp) fun _ => hr
  · exact registerEffect_goto _ ho (by constructor <;> simp [wrote])

theorem execT2_registers (h : u.inStart = true) (hst : u.st = .clockSourceDefault) (hx : execT2 u = .next t) :
    RegisterEffect u t := by
  obtain ⟨hb, ho⟩ := State.inStart_iff.mp h
  have hp : u.st ≠ .pllConfiguring := by simp [hst]
  have hr : u.st ≠ .ready := by simp [hst]
  rcases execT2_cases u with ⟨-, he⟩ | ⟨cmds, hc, ⟨-, he⟩ | ⟨k, hk, ⟨-, he⟩ | ⟨-, he | ⟨e, -, he⟩ | ⟨e, -, he⟩⟩⟩⟩ <;>
    rw [he] at hx <;> cases hx
  case inl => exact registerEffect_raise _ _ _ (by simp) (by simp) fun _ => hr
  case inr.inl => exact registerEffect_goto _ ho (sameFlags_enter u)
  case inr.inr.inr.inl =>
    refine registerEffect_enter h hp ?_
    simp only [requestOf_start u hb ho, hst, hc, HookResult.entries, hk, Option.isSome_some]
  case inr.inr.inr.inr.inl => exact registerEffect_raise _ _ _ (by simp) (by simp) fun _ => hr
  case inr.inr.inr.inr.inr =>
    split
    · exact registerEffect_goto _ ho (by constructor <;> simp [wrote])
    · refine .advances (by constructor <;> simp [wrote]) (by simp [wrote]) (fun _ => hp) ?_ ?_ ?_ <;>
        rw [entry_of_start h hp]
      · simp [wrote]
      · simp only [State.planLength, ho, hst, hc, HookResult.entries, if_true]
        omega

theorem execT3_registers (h : u.inStart = true) (hst : u.st = .pllConfiguring) (hx : execT3 u = .next t) :
    RegisterEffect u t := by
  obtain ⟨hb, ho⟩ := State.inStart_iff.mp h
  have hr : u.st ≠ .ready := by simp [hst]
  have hentry := entry_of_poll h hst
  rcases execT3_cases u with he | ⟨e, -, he⟩ | ⟨b, e, -, -, he⟩ | ⟨b, e, -, -, he⟩ <;> rw [he] at hx <;> cases hx
  · refine .waits (by simp [requestOf_start u hb ho, hst]) (by constructor <;> simp) ?_
    rw [hentry]
    exact ⟨rfl, rfl, rfl, rfl⟩
  · exact registerEffect_raise _ _ _ (by simp) (by simp) fun _ => hr
  · exact registerEffect_goto _ ho (by constructor <;> simp [gotRead])
  · split
    · exact registerEffect_raise _ _ _ (by simp [gotRead]) (by simp [gotRead]) fun _ => hr
    · rename_i hgo
      refine .polls hst (by constructor <;> simp [gotRead]) (by simp [gotRead]) ?_ ?_ ?_ ?_ <;> rw [hentry]
      · simp [gotRead]
      · exact hgo

theorem execT5_registers (h : u.inStart = true) (hst : u.st = .clockSourcePll) (hx : execT5 u = .next t) :
    RegisterEffect u t := by
  obtain ⟨hb, ho⟩ := State.inStart_iff.mp h
  have hp : u.st ≠ .pllConfiguring := by simp [hst]
  have hr : u.st ≠ .ready := by simp [hst]
  rcases execT5_cases u with ⟨-, he⟩ | ⟨rows, hc, ⟨-, he⟩ | ⟨row, hk, he⟩ | ⟨row, e, hk, ⟨-, he⟩ | ⟨-, he⟩⟩⟩ <;>
    rw [he] at hx <;> cases hx
  case inl => exact registerEffect_raise _ _ _ (by simp) (by simp) fun _ => hr
  case inr.inl => exact registerEffect_goto _ ho (sameFlags_enter u)
  case inr.inr.inl =>
    refine registerEffect_enter h hp ?_
    simp only [requestOf_start u hb ho, hst, hc, HookResult.entries, hk, Option.isSome_some]
  case inr.inr.inr.inl => exact registerEffect_raise _ _ _ (by simp) (by simp) fun _ => hr
  case inr.inr.inr.inr =>
    split
    · exact registerEffect_goto _ ho (by constructor <;> simp [wrote])
    · refine .advances (by constructor <;> simp [wrote]) (by simp [wrote]) (fun _ => hp) ?_ ?_ ?_ <;>
        rw [entry_of_start h hp]
      · simp [wrote]
      · simp only [State.planLength, ho, hst, hc, HookResult.entries, if_true]
        omega

/-- A transaction of a list of SET_GAINs leaves `ST`, the flags and the entry bit alone. -/
theorem gainStep_flags (n : Nat) (moves : List GainMove) (l r : ExtRat) (m : Bool) (v : State) :
    SameFlags v (gainStep n moves l r m v).1 ∧ (gainStep n moves l r m v).1.st = v.st ∧
      (gainStep n moves l r m v).1.entered = v.entered := by
  rcases gainStep_cases n moves l r m v with
    ⟨-, h⟩ | ⟨mv, -, h | ⟨-, e, -, h⟩ | ⟨-, b, e, -, h⟩ | ⟨-, e, -, h⟩ | ⟨-, e, -, h⟩⟩ <;>
    rw [h] <;> refine ⟨⟨?_, ?_, ?_, ?_⟩, ?_, ?_⟩ <;> simp [gotRead, wrote]

/-- A transaction of a list of SET_GAINs that is not answered leaves the position. -/
theorem gainStep_waits {n : Nat} {moves : List GainMove} {l r : ExtRat} {m : Bool} {v : State}
    (hw : (gainStep n moves l r m v).2 = .wait) :
    moves[n / 2]? ≠ none ∧ SamePlace v (gainStep n moves l r m v).1 := by
  rcases gainStep_cases n moves l r m v with
    ⟨-, h⟩ | ⟨mv, hm, h | ⟨-, e, -, h⟩ | ⟨-, b, e, -, h⟩ | ⟨-, e, -, h⟩ | ⟨-, e, -, h⟩⟩ <;> rw [h] at hw ⊢
  case inr.inl => exact ⟨by simp [hm], by constructor <;> simp⟩
  case inr.inr.inr.inr.inr => split at hw <;> cases hw
  all_goals cases hw

/-- A transaction of a list of SET_GAINs with another one to follow advances the position inside the list: after a read
its write follows, after a write the list says so. -/
theorem gainStep_advances {n : Nat} {moves : List GainMove} {l r : ExtRat} {m : Bool} {v : State}
    (hw : (gainStep n moves l r m v).2 = .more) :
    (gainStep n moves l r m v).1.idx = v.idx + 1 ∧ n + 1 < 2 * moves.length := by
  rcases gainStep_cases n moves l r m v with
    ⟨-, h⟩ | ⟨mv, hm, h | ⟨-, e, -, h⟩ | ⟨hp, b, e, -, h⟩ | ⟨-, e, -, h⟩ | ⟨hp, e, -, h⟩⟩ <;> rw [h] at hw ⊢
  case inr.inr.inr.inl =>
    have hlen : n / 2 < moves.length := (List.getElem?_eq_some_iff.mp hm).1
    exact ⟨rfl, by omega⟩
  case inr.inr.inr.inr.inr =>
    refine ⟨rfl, ?_⟩
    by_contra hlen
    rw [if_pos (by omega)] at hw
    cases hw
  all_goals cases hw

theorem gainRequest_isSome (n : Nat) (moves : List GainMove) (m : Bool) (v : State) (h : moves[n / 2]? ≠ none) :
    (gainRequest n moves m v).isSome = true := by
  obtain ⟨mv, hm⟩ := Option.ne_none_iff_exists'.mp h
  simp only [gainRequest, hm]
  split <;> rfl

theorem execT6_registers (h : u.inStart = true) (hst : u.st = .boardConfiguring) (hx : execT6 u = .next t) :
    RegisterEffect u t := by
  obtain ⟨hb, ho⟩ := State.inStart_iff.mp h
  have hp : u.st ≠ .pllConfiguring := by simp [hst]
  rw [execT6_eq u _ rfl] at hx
  cases hx
  obtain ⟨hflags, hkeep, hent⟩ :=
    gainStep_flags (enter u).idx.toNat (defaultMoves u.cfg) (.fin 0) (.fin 0) false (enter u)
  have hf : SameFlags u (gainStep (enter u).idx.toNat (defaultMoves u.cfg) (.fin 0) (.fin 0) false (enter u)).1 :=
    ⟨hflags.busy.trans (by simp), hflags.failed.trans (by simp), hflags.errKind.trans (by simp),
      hflags.errIndex.trans (by simp)⟩
  split
  next hw =>
    obtain ⟨hm, hplace⟩ := gainStep_waits hw
    refine .waits ?_ hf (by rwa [entry_of_start h hp])
    simp only [requestOf_start u hb ho, hst]
    exact gainRequest_isSome _ _ _ _ hm
  next hw =>
    obtain ⟨hidx, hlen⟩ := gainStep_advances hw
    refine .advances hf (by simpa using hkeep) (fun _ => hp) ?_ ?_ ?_ <;> rw [entry_of_start h hp]
    · exact hidx
    · exact hent
    · simpa only [State.planLength, ho, hst, if_true] using hlen
  next => exact registerEffect_goto _ ho hf
  next => exact registerEffect_raise _ _ _ (by simpa using hkeep) hf.failed fun _ => by simp [hst]

/-- Everything a step of a START writes of `ST`, the flags and the position (R160 to R167). -/
theorem transition_registers (hb : u.busy = true) (ho : u.op = 0#3) (hx : exec (transitionOf u.st) u = .next t) :
    RegisterEffect u t := by
  have h : u.inStart = true := State.inStart_iff.mpr ⟨hb, ho⟩
  have hn := requestOf_start u hb ho
  cases hst : u.st <;> rw [hst] at hx
  case reset =>
    cases hx
    exact clkselStep_registers _ _ h (by simp [hst]) (by simp [hst]) (by simp [hn, hst])
  case clockSourceDefault => exact execT2_registers h hst hx
  case pllConfiguring => exact execT3_registers h hst hx
  case pllLocked =>
    cases hx
    exact clkselStep_registers _ _ h (by simp [hst]) (by simp [hst]) (by simp [hn, hst])
  case clockSourcePll => exact execT5_registers h hst hx
  case boardConfiguring => exact execT6_registers h hst hx
  case ready =>
    cases hx
    exact registerEffect_ret rfl rfl

/-- Everything a step of a gain command writes of `ST`, the flags and the position (R192). -/
theorem gainBody_registers (hb : u.busy = true) (ho : u.op ≠ 0#3) :
    RegisterEffect u (gainBody (channelOf u.op) u) := by
  have hentry : entry u = u := entry_of_not_start (State.inStart_of_op_ne ho)
  rw [gainBody_eq u _ _ rfl]
  obtain ⟨hf, hkeep, hent⟩ := gainStep_flags u.idx.toNat (gainMoves u.cfg (channelOf u.op)) (f32Value u.leftDb)
    (f32Value u.rightDb) u.mute u
  split
  next hw =>
    obtain ⟨hm, hplace⟩ := gainStep_waits hw
    refine .waits ?_ hf (by rwa [hentry])
    rw [requestOf_gain u hb ho]
    exact gainRequest_isSome _ _ _ _ hm
  next hw =>
    obtain ⟨hidx, hlen⟩ := gainStep_advances hw
    refine .advances hf hkeep (fun h => absurd h ho) ?_ ?_ ?_ <;> rw [hentry]
    · exact hidx
    · exact hent
    · simpa only [State.planLength, ho, if_false] using hlen
  next => exact registerEffect_ret hkeep hf.failed
  next => exact registerEffect_raise _ _ _ hkeep hf.failed fun h => by cases h

/-! ### The codec registers keep their canonical form (R50) -/

theorem intake_env_wf (h : s.env.wf = true) : (intake s).env.wf = true := by
  unfold intake
  split
  · exact h
  · exact Env.happen_wf _ _ _ h

theorem BusyEffect.env_wf (h : BusyEffect u t) (hu : u.env.wf = true) : t.env.wf = true := by
  cases h with
  | quiet _ _ _ env | ended _ env => rwa [env]
  | wrote _ _ _ _ _ _ answer _ env | writeFailed _ _ _ _ _ _ answer _ env =>
    rw [env, Env.noteWrite_wf]
    exact (Env.answerWrite_spec _ _ _ _ _ answer).2.1 hu
  | read _ _ _ _ answer _ env =>
    rw [env, Env.noteRead_wf, Env.answerRead_wf _ _ _ _ _ _ answer]
    exact hu
  | readFailed _ _ _ answer _ env =>
    rw [env, Env.answerRead_wf _ _ _ _ _ _ answer]
    exact hu

theorem applyRst_env_wf (h : s.env.wf = true) : (applyRst s).env.wf = true := by
  simp only [applyRst]
  split
  · exact Env.forget_wf _ _ _ (by simpa using h)
  · exact h

theorem Env.noteStart_wf (e : Env) (h : e.wf = true) : e.noteStart.wf = true := by
  unfold Env.noteStart
  split
  · exact h
  · split
    · exact h
    · exact (Env.wf_iff _).mpr ⟨Memory.wf_nil, fun _ c hc => by cases hc⟩

/-! ### The invariant of the registers, operation by operation -/

/-- An idle block's part of the invariant. -/
theorem State.BlockInv.of_idle (hb : s.busy = false) (regs : s.env.wf = true)
    (failedNotReady : s.failed = true → s.st ≠ .ready) (okIndex : s.errKind = .ok → s.errIndex = 0) : s.BlockInv := by
  refine ⟨regs, failedNotReady, okIndex, ?_, ?_, ?_, ?_, ?_⟩ <;> simp [State.inStart, hb]

/-- No invariant reads the command port, nor of the environment more than the form of the codec registers. -/
theorem State.BlockInv.with_inputs (h : s.BlockInv) (e : Env) (he : e.wf = true) (l : List (BitVec 72)) :
    State.BlockInv { s with env := e, cmdIn := l } :=
  ⟨he, h.failedNotReady, h.okIndex, h.legalOp, h.gainReady, h.startClean, h.idxBound, h.pollBound⟩

theorem planLength_congr (hc : t.cfg = u.cfg) (ho : t.op = u.op) (hst : t.st = u.st) : t.planLength = u.planLength := by
  simp only [State.planLength, hc, ho, hst]

/-- The position is what an operation that goes on has to account for: it leaves the flags, and `ST` only of a START. -/
theorem State.BlockInv.of_goes_on (h : u.BlockInv) (hb : u.busy = true) (regs : t.env.wf = true) (hl : SameLatches u t)
    (hf : SameFlags u t) (hst : u.op = 0#3 ∨ t.st = u.st)
    (idxBound : (u.op = 0#3 → t.entered = true) → t.idx.toNat < t.planLength)
    (pollBound : u.op = 0#3 → t.st = .pllConfiguring → t.entered = true →
      t.pollCnt = t.idx ∧ t.pollCnt.toNat < u.cfg.pollMax) : t.BlockInv where
  regs := regs
  failedNotReady := by
    rw [hf.failed]
    intro hfailed
    rcases hst with ho | hst
    · exact absurd (hfailed.symm.trans (h.startClean hb ho)) (by decide)
    · rw [hst]
      exact h.failedNotReady hfailed
  okIndex := by rw [hf.errKind, hf.errIndex]; exact h.okIndex
  legalOp := by rw [hl.op, hl.cfg, hf.busy]; exact h.legalOp
  gainReady := by
    rw [hl.op]
    intro _ ho
    rw [hst.resolve_left ho]
    exact h.gainReady hb ho
  startClean := by rw [hl.op, hf.busy, hf.failed]; exact h.startClean
  idxBound := by rw [hl.op]; exact fun _ => idxBound
  pollBound := by
    rw [State.inStart_iff, hl.op, hl.cfg]
    exact fun hs => pollBound hs.2

/-- A START with a transaction to issue is in a transition that has one (R35). -/
theorem planLength_pos (hw : u.cfg.wellFormed = true) (h : u.inStart = true) (hn : (requestOf u).isSome = true) :
    0 < u.planLength := by
  obtain ⟨hb, ho⟩ := State.inStart_iff.mp h
  obtain ⟨-, hpoll, -⟩ := (Config.wellFormed_iff u.cfg).mp hw
  rw [requestOf_start u hb ho] at hn
  simp only [State.planLength, ho, if_true]
  cases hst : u.st <;> simp only [hst] at hn ⊢
  case reset | pllLocked | ready => decide
  case pllConfiguring => exact hpoll
  case boardConfiguring =>
    simp only [defaultMoves, List.flatMap_cons, List.length_append]
    have := gainMoves_length u.cfg .lineIn
    omega
  case clockSourceDefault | clockSourcePll =>
    refine List.length_pos_of_ne_nil fun hnil => ?_
    simp [hnil] at hn

/-- The entry actions keep the invariant when a transaction is to be issued (R35, R34). -/
theorem State.BlockInv.after_entry (h : u.BlockInv) (hw : u.cfg.wellFormed = true) (hn : (requestOf u).isSome = true) :
    (entry u).BlockInv := by
  cases hs : u.inStart with
  | false => rwa [entry_of_not_start hs]
  | true =>
    obtain ⟨hb, ho⟩ := State.inStart_iff.mp hs
    refine h.of_goes_on hb (by simpa using h.regs) (by constructor <;> simp) (by constructor <;> simp) (.inl ho) ?_ ?_
    · intro _
      rw [planLength_congr (u := u) (by simp) (by simp) (by simp), entry_idx_of_start hs]
      split
      · rename_i hent
        exact h.idxBound hb fun _ => hent
      · exact planLength_pos hw hs hn
    · intro _ hst _
      have hst : u.st = .pllConfiguring := by simpa using hst
      obtain ⟨-, hpoll, -⟩ := (Config.wellFormed_iff u.cfg).mp hw
      rw [entry_of_poll hs hst, enterPoll_pollCnt, enterPoll_idx]
      split
      · rename_i hent
        exact h.pollBound hs hst hent
      · exact ⟨rfl, hpoll⟩

/-- Executing the operation in progress keeps the invariant of the registers. -/
theorem State.BlockInv.after_exec (h : u.BlockInv) (hw : u.cfg.wellFormed = true) (hb : u.busy = true)
    (heff : BusyEffect u t) (hl : SameLatches u t) (hreg : RegisterEffect u t) : t.BlockInv := by
  have regs := heff.env_wf h.regs
  cases hreg with
  | ended busy st failed okIndex =>
    refine .of_idle busy regs (fun hf => ?_) okIndex
    rw [st]
    exact (failed hf).elim h.failedNotReady id
  | complete op flags entered =>
    refine h.of_goes_on hb regs hl flags (.inl op) (fun hent => ?_) fun _ _ hent => ?_
    · exact absurd (entered.symm.trans (hent op)) (by decide)
    · exact absurd (entered.symm.trans hent) (by decide)
  | waits request flags place =>
    have hentry := h.after_entry hw request
    have hst : t.st = u.st := place.st.trans (by simp)
    refine h.of_goes_on hb regs hl flags (.inr hst) (fun hent => ?_) fun ho hpoll hent => ?_
    · rw [place.entered] at hent
      rw [planLength_congr (u := entry u) (by simp [hl.cfg]) (by simp [hl.op]) place.st, place.idx]
      exact hentry.idxBound (by simpa using hb) (by simpa using hent)
    · rw [place.entered] at hent
      rw [place.pollCnt, place.idx]
      simpa using hentry.pollBound (by simp [State.inStart, hb, ho]) (by simpa [hst] using hpoll) hent
  | advances flags st notPoll idx entered bound =>
    refine h.of_goes_on hb regs hl flags (.inr st) (fun _ => ?_) fun ho hpoll _ => ?_
    · rw [planLength_congr hl.cfg hl.op st, idx, BitVec.toNat_add]
      exact (Nat.mod_le _ _).trans_lt bound
    · exact absurd (st.symm.trans hpoll) (notPoll ho)
  | polls poll flags st idx pollCnt entered goesOn =>
    by_cases ho : u.op = 0#3
    · have hs : u.inStart = true := State.inStart_iff.mpr ⟨hb, ho⟩
      have hn : (requestOf u).isSome = true := by simp [requestOf_start u hb ho, poll]
      obtain ⟨hsame, hlt⟩ := (h.after_entry hw hn).pollBound (by simpa [State.inStart] using hs) (by simpa using poll)
        (by simp [entry_of_poll hs poll])
      rw [entry_cfg] at hlt
      have hmax : u.cfg.pollMax < 2 ^ 16 := by
        obtain ⟨-, -, -, -, -, -, -, -, -, -, hcounts⟩ := (Config.wellFormed_iff u.cfg).mp hw
        exact ((Config.countsOk_iff u.cfg).mp hcounts).1
      have hcnt : t.pollCnt = t.idx := by rw [pollCnt, idx, hsame]
      have hnext : t.pollCnt.toNat < u.cfg.pollMax := by
        rw [pollCnt]
        bv_omega
      refine h.of_goes_on hb regs hl flags (.inr st) (fun _ => ?_) fun _ _ _ => ⟨hcnt, hnext⟩
      rw [planLength_congr hl.cfg hl.op st, ← hcnt]
      simpa only [State.planLength, ho, poll, if_true] using hnext
    · exact absurd ((h.gainReady hb ho).symm.trans poll) (by decide)

/-- Skipping a transition without a transaction keeps the invariant (R162, R165). -/
theorem State.BlockInv.after_skipEmpty (h : t.BlockInv) : (skipEmpty t).BlockInv := by
  have skip : ∀ target, t.inStart = true → (goto target (enter t)).BlockInv := by
    intro target hs
    obtain ⟨hb, ho⟩ := State.inStart_iff.mp hs
    refine h.of_goes_on hb (by simpa using h.regs) (by constructor <;> simp) (by constructor <;> simp) (.inl ho) ?_ ?_ <;>
      simp [ho]
  unfold skipEmpty
  split
  · rename_i hs
    split
    · split
      · exact skip _ hs
      · exact h
    · split
      · exact skip _ hs
      · exact h
    · exact h
  · exact h

/-- What a transaction leaves until the next one: the registers of `t`, at the position of `w` (R14). -/
theorem State.BlockInv.after_hold {w : State} (h : w.BlockInv) (ht : t.BlockInv) (hb : w.busy = true) (htb : t.busy = true)
    (hc : t.cfg = w.cfg) (ho : t.op = w.op) : (hold w t).BlockInv where
  regs := ht.regs
  failedNotReady := by
    intro hf
    by_cases h0 : t.op = 0#3
    · exact absurd (hf.symm.trans (ht.startClean htb h0)) (by decide)
    · exact absurd (ht.gainReady htb h0) (ht.failedNotReady hf)
  okIndex := ht.okIndex
  legalOp := ht.legalOp
  gainReady := fun _ h0 => h.gainReady hb (by simpa [ho] using h0)
  startClean := ht.startClean
  idxBound := by
    intro _ hent
    rw [planLength_congr ((hold_cfg w t).trans hc) ((hold_op w t).trans ho) (hold_st w t)]
    exact h.idxBound hb (by simpa [ho] using hent)
  pollBound := by
    intro hs hst hent
    rw [hold_cfg, hc]
    exact h.pollBound (by simpa [State.inStart, ho, hb, htb] using hs) hst hent

/-! ### The invariant of the machine -/

theorem State.Inv.of_nothing_due (h : t.BlockInv) (hd : t.due = none) : t.Inv :=
  ⟨h, by rwa [settle_of_due_none hd], by simp [hd]⟩

/-- What other agents do keeps the invariant (R60 item 4). -/
theorem State.Inv.after_intake (h : s.Inv) : (intake s).Inv := by
  have now := h.now.with_inputs _ (intake_env_wf h.now.regs) s.cmdIn
  have settled := h.settled.with_inputs _ (intake_env_wf h.now.regs) (settle s).cmdIn
  refine ⟨?_, ?_, by simpa using h.dueBusy⟩
  · rw [intake_block s s rfl rfl]
    exact now
  · rw [settle_intake]
    exact settled

/-- An answered transaction that another one follows keeps the invariant, before and after what is due is done (R14). -/
theorem State.Inv.of_held (h : u.BlockInv) (hd : u.due = none) (hw : u.cfg.wellFormed = true) (hb : u.busy = true)
    (ht : t.BlockInv) (htb : t.busy = true) (hn : (requestOf u).isSome = true) (heff : BusyEffect u t)
    (hl : SameLatches u t) : (hold (entry u) t).Inv := by
  have hho : Holdable u t := by
    refine holdable_of_effect hd ?_ hl
    by_cases ho : u.op = 0#3
    · exact .inl ho
    · exact .inr (heff.st_of_gain ho)
  refine ⟨?_, ?_, fun _ => htb⟩
  · exact (h.after_entry hw hn).after_hold ht (by simpa using hb) htb (by simpa using hl.cfg) (by simpa using hl.op)
  · rw [settle_hold _ _ hho.due (by simpa using hho.st htb)]
    exact ht.after_skipEmpty

/-- A step of the operation in progress, landed, keeps the invariant. -/
theorem inv_land {v : State} (hv : v.Inv) (hw : v.cfg.wellFormed = true) (hb : v.busy = true)
    (heff : BusyEffect (settle v) t) (hl : SameLatches (settle v) t) (hreg : RegisterEffect (settle v) t) :
    (land v (settle v) t).Inv := by
  have hub : (settle v).busy = true := by simpa using hb
  have huw : (settle v).cfg.wellFormed = true := by simpa using hw
  have hd : t.due = none := hl.due.trans (settle_due v)
  have ht : t.BlockInv := hv.settled.after_exec huw hub heff hl hreg
  rcases land_cases v hub heff with ⟨-, h⟩ | ⟨-, -, -, h⟩ | ⟨-, -, -, h⟩ | ⟨htb, ⟨x, hx⟩, h⟩ <;> rw [h]
  · exact .of_nothing_due ht hd
  · exact hv
  · exact .of_nothing_due ht hd
  · refine .of_held hv.settled (settle_due v) huw hub ht htb ?_ heff hl
    rcases heff.trace_cases with hsame | ⟨r, -, hr, -⟩
    · simp [hsame] at hx
    · simp [hr]

/-- The acceptance of an illegal word or an unready gain command keeps the invariant (R89, R191). -/
theorem State.BlockInv.after_raise (h : u.BlockInv) {v : State} (e : ErrKind) (i : BitVec 16) (he : v.env = u.env)
    (hst : v.st = u.st) (hf : v.failed = u.failed) : (raise false e i v).BlockInv := by
  refine .of_idle rfl ?_ ?_ (fun hk => by simp at hk)
  · rw [raise_env, he]
    exact h.regs
  · rw [raise_failed, raise_st, hf, hst, Bool.or_false]
    exact h.failedNotReady

/-- The acceptance of a command keeps the invariant: a START clears `FAILED` with `ST <- Reset`, a gain command is taken
up only legal, in `Ready`, and at its first transaction (R160, R191). -/
theorem State.BlockInv.after_accept {op : BitVec 3} {l r : F32} {m : Bool} (h : u.BlockInv) (hb : u.busy = false)
    (hx : exec (opInstr op l r m) u = .next t) : t.BlockInv ∧ t.due = u.due := by
  rw [exec_opInstr_idle u op l r m hb] at hx
  cases hx
  by_cases ho : op = 0#3
  · rw [if_pos ho]
    refine ⟨⟨?_, ?_, h.okIndex, ?_, ?_, ?_, ?_, ?_⟩, rfl⟩
    · exact Env.noteStart_wf _ h.regs
    all_goals simp [channelOf, Config.inUse]
  rw [if_neg ho]
  split
  · exact ⟨h.after_raise _ _ rfl rfl rfl, rfl⟩
  · rename_i hlegal
    split
    · exact ⟨h.after_raise _ _ rfl rfl rfl, rfl⟩
    · rename_i hready
      have hst : u.st = .ready := not_not.mp hready
      obtain ⟨h5, huse⟩ := not_or.mp hlegal
      have hlen := gainMoves_length u.cfg (channelOf op)
      refine ⟨⟨h.regs, h.failedNotReady, h.okIndex, ?_, ?_, ?_, ?_, ?_⟩, rfl⟩
      · exact fun _ => ⟨not_lt.mp h5, by simpa using huse⟩
      · exact fun _ _ => hst
      · exact fun _ h0 => absurd h0 ho
      · intro _ _
        simp only [State.planLength, State.latch_op, State.latch_cfg, ho, if_false]
        show 0 < _
        omega
      · exact fun hs => absurd (State.inStart_iff.mp hs).2 ho

theorem inv_applyRst (h : s.env.wf = true) : (applyRst s).Inv :=
  .of_nothing_due (.of_idle rfl (applyRst_env_wf h) (fun hf => by cases hf) fun _ => rfl) rfl

/-- Settles O48, by what the block was doing (`step_next_cases`). -/
theorem stepKeepsInvariant : Obligations.StepKeepsInvariant := by
  intro s t hs h
  have hv : (intake s).Inv := hs.after_intake
  obtain ⟨hw, ⟨-, rfl⟩ | ⟨-, u, rfl, hx⟩⟩ := step_next_cases s h
  · exact inv_applyRst hv.now.regs
  have hvw : (intake s).cfg.wellFormed = true := by simpa using hw
  have hu := hv.settled
  rcases hx with ⟨hb, ho, t0, hx, rfl⟩ | ⟨hb, -, h5, -⟩ | ⟨hb, ho, -, rfl⟩ | ⟨-, -, rfl⟩ | ⟨hb, w, rest, -, hx⟩
  · obtain ⟨heff, hl⟩ := transition_effect _ _ hb ho hx
    exact inv_land hv hvw (by simpa using hb) heff hl (transition_registers hb ho hx)
  · exact absurd (hu.legalOp hb).1 (by omega)
  · obtain ⟨heff, hl⟩ := gainBody_effect _ hb ho
    exact inv_land hv hvw (by simpa using hb) heff hl (gainBody_registers hb ho)
  · exact .of_nothing_due hu (settle_due _)
  · have hport := hu.with_inputs _ hu.regs rest
    rcases hx with ⟨-, rfl⟩ | ⟨-, hx⟩
    · exact .of_nothing_due (hport.after_raise _ _ rfl rfl rfl) (settle_due (intake s))
    · obtain ⟨ht, hd⟩ := hport.after_accept hb hx
      exact .of_nothing_due ht (hd.trans (settle_due (intake s)))

/-- Settles O49: at reset the block is idle, nothing is due, and `ST` is `Reset`. -/
theorem invariantsAtReset : Obligations.InvariantsAtReset := by
  intro cfg
  have hidle : (State.resetWith cfg).inStart = false := rfl
  refine ⟨?_, ⟨rfl, fun h => absurd rfl h⟩, fun h => ?_, fun h => ?_, rfl, rfl⟩
  · exact .of_nothing_due (.of_idle rfl rfl (fun h => by cases h) fun _ => rfl) rfl
  · exact absurd (hidle.symm.trans h) (by decide)
  · exact absurd (hidle.symm.trans h) (by decide)

end Sys2Proof.Machine
end

section
/-! SUPPORT. Which steps write a response, `ST` and `FAILED` (O55, O56), and the values at reset (O46). -/

namespace Sys2Proof.Machine

variable {s u t : State}

/-! ### Responses (R92) -/

/-- An operation in progress ends with exactly one response, of the flags it leaves, or goes on without one. -/
theorem BusyEffect.response_cases (h : BusyEffect u t) :
    (t.responses = u.responses ∧ t.busy = u.busy) ∨ (t.responses = u.responses ++ [t.rspWord] ∧ t.busy = false) := by
  cases h with
  | quiet _ responses busy => exact .inl ⟨responses, busy⟩
  | wrote _ _ _ _ _ _ _ _ _ ending => exact ending.imp id fun ⟨_, busy, _, responses⟩ => ⟨responses, busy⟩
  | read _ _ _ _ _ _ _ ending => exact ending.imp id fun ⟨_, busy, _, responses⟩ => ⟨responses, busy⟩
  | writeFailed _ _ _ _ _ _ _ _ _ responses busy => exact .inr ⟨responses, busy⟩
  | readFailed _ _ _ _ _ _ responses busy => exact .inr ⟨responses, busy⟩
  | ended _ _ responses busy => exact .inr ⟨responses, busy⟩

/-- The block is busy and has added no response to those of `s`, or it is idle and has added one, of the flags it has. -/
def RespondsAtEnd (s t : State) : Prop :=
  (t.responses = s.responses ∧ t.busy = true) ∨ (t.responses = s.responses ++ [t.rspWord] ∧ t.busy = false)

theorem RespondsAtEnd.of_same_responses (h : RespondsAtEnd u t) (hr : u.responses = s.responses) : RespondsAtEnd s t := by
  rwa [RespondsAtEnd, ← hr]

/-- Landing keeps it so: what an execution leaves due is no response and no end (R14). -/
theorem respondsAtEnd_land {v : State} (hb : v.busy = true) (h : BusyEffect (settle v) t) :
    RespondsAtEnd v (land v (settle v) t) := by
  have hub : (settle v).busy = true := by simpa using hb
  have hcases : RespondsAtEnd (settle v) t := h.response_cases.imp (fun ⟨hr, ht⟩ => ⟨hr, ht.trans hub⟩) id
  have ht : RespondsAtEnd v t := hcases.of_same_responses (settle_responses v)
  rcases land_cases v hub h with ⟨-, hl⟩ | ⟨-, -, -, hl⟩ | ⟨-, -, -, hl⟩ | ⟨hbusy, -, hl⟩ <;> rw [hl]
  · exact ht
  · exact .inl ⟨rfl, hb⟩
  · exact ht
  · exact .inl (ht.resolve_right fun ⟨_, hidle⟩ => absurd (hidle.symm.trans hbusy) (by decide))

theorem respondsAtEnd_raise (b : Bool) (e : ErrKind) (i : BitVec 16) (s : State) : RespondsAtEnd s (raise b e i s) :=
  .inr ⟨rfl, rfl⟩

theorem respondsAtEnd_acceptIllegal (op : BitVec 3) (l r : F32) (m : Bool) (s : State) :
    RespondsAtEnd s (acceptIllegal op l r m s) :=
  (respondsAtEnd_raise ..).of_same_responses (State.latch_responses s op l r m)

/-- The acceptance of a command takes it up without a response, or answers it at once (R190, R191). -/
theorem exec_opInstr_idle_respondsAtEnd {op : BitVec 3} {l r : F32} {m : Bool} (hb : s.busy = false)
    (hx : exec (opInstr op l r m) s = .next t) : RespondsAtEnd s t := by
  rw [exec_opInstr_idle s op l r m hb] at hx
  cases hx
  split
  · exact .inl ⟨rfl, rfl⟩
  · split
    · exact respondsAtEnd_acceptIllegal ..
    · split
      · exact (respondsAtEnd_raise ..).of_same_responses rfl
      · exact .inl ⟨rfl, rfl⟩

/-- A step with an operation in progress or a word to accept. -/
theorem step_respondsAtEnd (h : step s = .next t) (hr : rstHigh s = false) (hwork : s.busy = true ∨ s.cmdIn ≠ []) :
    RespondsAtEnd s t := by
  obtain ⟨-, ⟨hrst, -⟩ | ⟨-, u, rfl, ⟨hb, t0, heff, -, rfl⟩ | ⟨hb, -, rfl⟩ | ⟨hb, hc, -⟩ |
    ⟨hb, w, rest, -, hx⟩⟩⟩ := step_effect h
  · exact absurd (hr.symm.trans hrst) (by decide)
  · exact (respondsAtEnd_land (by simpa using hb) heff).of_same_responses (intake_responses s)
  · have hquiet : BusyEffect (settle (intake s)) (settle (intake s)) := .quiet rfl rfl rfl rfl (.inl rfl) rfl
    exact (respondsAtEnd_land (by simpa using hb) hquiet).of_same_responses (intake_responses s)
  · simp [hb, hc] at hwork
  · have hport : RespondsAtEnd { settle (intake s) with cmdIn := rest } t := by
      rcases hx with ⟨-, rfl⟩ | ⟨-, hx⟩
      · exact respondsAtEnd_acceptIllegal ..
      · exact exec_opInstr_idle_respondsAtEnd (by simpa using hb) hx
    exact hport.of_same_responses (by simp)

/-- Settles O55: with an operation in progress or a word to accept `step_respondsAtEnd`, and without either nothing is
written. -/
theorem oneResponseAnOperation : Obligations.OneResponseAnOperation := by
  intro s t h hr
  by_cases hwork : s.busy = true ∨ s.cmdIn ≠ []
  · exact (step_respondsAtEnd h hr hwork).imp (fun ⟨hres, ht⟩ => ⟨hres, fun _ => ht, fun _ _ => ht⟩)
      fun ⟨hres, ht⟩ => ⟨hres, ht, hwork⟩
  · obtain ⟨hb, hc⟩ := not_or.mp hwork
    have hb : s.busy = false := by simpa using hb
    have hstep := step_of_no_word (step_effect h).1 hr hb (not_not.mp hc)
    obtain rfl : settle (intake s) = t := Host.Outcome.next.inj (hstep.symm.trans h)
    exact .inl ⟨by simp, by simp [hb], fun _ hne => absurd hne hc⟩

/-! ### `ST` and `FAILED` outside a START (R22, R24) -/

theorem skipEmpty_of_not_start (h : s.inStart = false) : skipEmpty s = s := by simp [skipEmpty, h]

theorem settle_st_of_not_start (h : s.inStart = false) : (settle s).st = s.st := by
  rcases Option.eq_none_or_eq_some s.due with hd | ⟨d, hd⟩
  · rw [settle_of_due_none hd]
  · have hw : (writeDue d s).inStart = false := h
    rw [settle_of_due hd, skipEmpty_of_not_start hw, writeDue_st, h]
    rfl

/-- A gain command leaves `FAILED` alone (R192, R229). -/
theorem BusyEffect.failed_of_gain (h : BusyEffect u t) (ho : u.op ≠ 0#3) : t.failed = u.failed := by
  cases h with
  | quiet _ _ _ _ _ failed => exact failed
  | wrote _ _ _ _ _ _ _ _ _ _ _ failed => exact failed
  | writeFailed _ _ _ _ _ _ _ _ _ _ _ _ _ failed => exact failed.resolve_right ho
  | read _ _ _ _ _ _ _ _ _ failed => exact failed.resolve_right ho
  | readFailed _ _ _ _ _ _ _ _ _ _ failed => exact failed.resolve_right ho
  | ended _ _ _ _ _ _ failed => exact failed.resolve_right ho

theorem land_st_failed_of_gain {v : State} (hb : v.busy = true) (ho : v.op ≠ 0#3) (h : BusyEffect (settle v) t) :
    (land v (settle v) t).st = v.st ∧ (land v (settle v) t).failed = v.failed := by
  have hset : (settle v).st = v.st := settle_st_of_not_start (State.inStart_of_op_ne ho)
  have huo : (settle v).op ≠ 0#3 := by simpa using ho
  have hst : t.st = v.st := (h.st_of_gain huo).trans hset
  have hf : t.failed = v.failed := (h.failed_of_gain huo).trans (settle_failed v)
  rcases land_cases v (by simpa using hb) h with ⟨-, hl⟩ | ⟨-, -, -, hl⟩ | ⟨-, -, -, hl⟩ | ⟨-, -, hl⟩ <;> rw [hl]
  · exact ⟨hst, hf⟩
  · exact ⟨rfl, rfl⟩
  · exact ⟨hst, hf⟩
  · exact ⟨by simpa using hset, hf⟩

/-- The acceptance of any other command than START leaves `ST` and `FAILED` alone. -/
theorem exec_opInstr_idle_st_failed {op : BitVec 3} {l r : F32} {m : Bool} (hb : s.busy = false) (ho : op ≠ 0#3)
    (hx : exec (opInstr op l r m) s = .next t) : t.st = s.st ∧ t.failed = s.failed := by
  rw [exec_opInstr_idle s op l r m hb, if_neg ho] at hx
  cases hx
  (repeat' split) <;> simp [acceptIllegal]

/-- The mask of R88 selects the bits of `RSV` and `OP`. -/
theorem opcodeMask_bits : ∀ i < 72, (0xF70000000000000000#72).getLsbD i = true → (68 ≤ i ∧ i < 72) ∨ (64 ≤ i ∧ i < 67) := by
  decide

/-- A word of START matches its row of R88. -/
theorem and_opcodeMask_of_start (w : BitVec 72) (hrsv : cmdRsv w = 0#4) (hop : cmdOp w = 0#3) :
    w &&& 0xF70000000000000000#72 = 0#72 := by
  have bit {n : Nat} (k : Nat) (x : BitVec n) (h : w.extractLsb' k n = x) (hx : x = 0#n) (i : Nat) (hi : i < n) :
      w.getLsbD (k + i) = false := by
    have := congrArg (fun v => v.getLsbD i) (h.trans hx)
    simpa [BitVec.getLsbD_extractLsb', hi] using this
  apply BitVec.eq_of_getLsbD_eq
  intro i hi
  rw [BitVec.getLsbD_and, BitVec.getLsbD_zero, Bool.and_eq_false_iff, or_iff_not_imp_right, Bool.not_eq_false]
  intro hm
  rcases opcodeMask_bits i hi hm with ⟨h1, h2⟩ | ⟨h1, h2⟩
  · simpa [Nat.add_sub_cancel' h1] using bit 68 _ rfl hrsv (i - 68) (by omega)
  · simpa [Nat.add_sub_cancel' h1] using bit 64 _ rfl hop (i - 64) (by omega)

/-- Settles O56, by what the block was doing (`step_effect`). -/
theorem stAndFailedWrittenByStartOnly : Obligations.StAndFailedWrittenByStartOnly := by
  intro s t h hr hs hword
  have hvs : (intake s).inStart = false := by simpa [State.inStart] using hs
  have hset : (settle (intake s)).st = s.st := (settle_st_of_not_start hvs).trans (intake_st s)
  have gain : s.busy = true → (intake s).busy = true ∧ (intake s).op ≠ 0#3 := by
    intro hb
    exact ⟨by simpa using hb, by simpa [State.inStart, hb] using hs⟩
  obtain ⟨-, ⟨hrst, -⟩ | ⟨-, u, rfl, ⟨hb, t0, heff, -, rfl⟩ | ⟨hb, -, rfl⟩ | ⟨-, -, rfl⟩ |
    ⟨hb, w, rest, hc, hx⟩⟩⟩ := step_effect h
  · exact absurd (hr.symm.trans hrst) (by decide)
  · simpa using land_st_failed_of_gain (gain hb).1 (gain hb).2 heff
  · simpa using land_st_failed_of_gain (gain hb).1 (gain hb).2 (.quiet rfl rfl rfl rfl (.inl rfl) rfl)
  · exact ⟨hset, by simp⟩
  · rcases hx with ⟨-, rfl⟩ | ⟨hrsv, hx⟩
    · simpa [acceptBadWord, acceptIllegal] using hset
    · have hop : cmdOp w ≠ 0#3 := fun hop => hword w rest hb hc (and_opcodeMask_of_start w hrsv hop)
      obtain ⟨hst, hf⟩ := exec_opInstr_idle_st_failed (by simpa using hb) hop hx
      exact ⟨hst.trans hset, by simpa using hf⟩

/-! ### Reset -/

/-- Settles O46: each value is the one `State.resetWith` holds, and a codec with no known register answers `none`. -/
theorem resetValues : Obligations.ResetValues := by
  refine ⟨fun cfg => ⟨rfl, rfl, rfl, rfl, rfl, rfl, rfl, rfl, rfl, fun x => ?_⟩, rfl, by decide +kernel⟩
  simp [State.resetWith, Env.unknown, Env.peek, Env.isMock]

end Sys2Proof.Machine
end

section
/-! SUPPORT. How a script of answers and the mock bus answer one transaction (O19, O20; R67, R68, R71). -/

namespace Sys2Proof.Machine

variable {e : Env}

/-! ### What a write leaves of the transport, and of the registers it covers -/

@[simp] theorem Env.learn_transport (a : Addr) (v : Byte) (e : Env) : (e.learn a v).transport = e.transport := by
  unfold Env.learn
  (repeat' split) <;> rfl

@[simp] theorem Env.forget_transport (a : Addr) (n : Nat) (e : Env) : (e.forget a n).transport = e.transport := by
  unfold Env.forget
  split <;> rfl

@[simp] theorem Env.store_transport (a : Addr) (p : List Byte) (e : Env) : (e.store a p).transport = e.transport := by
  unfold Env.store
  split <;> simp

theorem Env.store_singleton (a : Addr) (v : Byte) (e : Env) : e.store a [v] = e.learn a v := rfl

theorem Env.store_of_length_ne_one {p : List Byte} (hp : p.length ≠ 1) (a : Addr) (e : Env) :
    e.store a p = e.forget a p.length := by
  unfold Env.store
  split
  · simp at hp
  · rfl

/-- A register that a failed write may have touched is unknown (R67). -/
theorem Env.forget_peek_covered (hm : e.isMock = false) (a : Addr) {n i : Nat} (hi : i < n) :
    (e.forget a n).peek (a + BitVec.ofNat 16 i).toNat = none := by
  have hr : (e.forget a n).regs = e.regs.eraseFrom a n := by simp [Env.forget, hm]
  simp only [Env.peek, Env.forget_isMock, hr, Memory.read_eraseFrom_covered n e.regs a i hi, hm]
  rfl

theorem Env.forget_of_mock (hm : e.isMock = true) (a : Addr) (n : Nat) : e.forget a n = e := by
  simp [Env.forget, hm]

/-! ### A script of answers (R71) -/

theorem Env.isMock_of_script {l : List BusAnswer} (h : e.transport = .script l) : e.isMock = false := by
  simp [Env.isMock, h]

/-- The environment once the script has one answer less. -/
def Env.withScript (l : List BusAnswer) (e : Env) : Env := { e with transport := .script l }

@[simp] theorem Env.withScript_transport (l : List BusAnswer) (e : Env) : (e.withScript l).transport = .script l := rfl
@[simp] theorem Env.withScript_isMock (l : List BusAnswer) (e : Env) : (e.withScript l).isMock = false := rfl
@[simp] theorem Env.withScript_codecKnown (l : List BusAnswer) (e : Env) :
    (e.withScript l).codecKnown = e.codecKnown := rfl
@[simp] theorem Env.withScript_draws (l : List BusAnswer) (e : Env) : (e.withScript l).draws = e.draws := rfl

theorem Env.withScript_peek {l : List BusAnswer} (h : e.transport = .script l) (l' : List BusAnswer) (x : Nat) :
    (e.withScript l').peek x = e.peek x :=
  Env.peek_congr (e := e) (e' := e.withScript l') rfl (Env.isMock_of_script h).symm x

theorem Env.answerWrite_script_nil (h : e.transport = .script []) (ord : Nat) (bytes : List Byte) :
    e.answerWrite ord bytes = none := by simp [Env.answerWrite, h]

theorem Env.answerRead_script_nil (h : e.transport = .script []) (lock : Addr) (ord : Nat) (a : Addr) :
    e.answerRead lock ord a = none := by simp [Env.answerRead, h]

/-- A write answered by a script: its extent is forgotten or stored. -/
theorem Env.answerWrite_script_cons {ans : BusAnswer} {l : List BusAnswer} (h : e.transport = .script (ans :: l))
    (ord : Nat) (a : Addr) (p : List Byte) :
    e.answerWrite ord (encodeFrame a p) = some (decide (ans ≠ .fail),
      if ans = .fail then (e.withScript l).forget a p.length else (e.withScript l).store a p) := by
  cases ans <;> simp [Env.answerWrite, h, Env.withScript]

theorem Env.answerRead_script_fail {l : List BusAnswer} (h : e.transport = .script (.fail :: l)) (lock : Addr)
    (ord : Nat) (a : Addr) : e.answerRead lock ord a = some (none, e.withScript l) := by
  simp [Env.answerRead, h, Env.withScript]

theorem Env.answerRead_script_ok {b : Byte} {l : List BusAnswer} (h : e.transport = .script (.ok b :: l)) (lock : Addr)
    (ord : Nat) (a : Addr) : e.answerRead lock ord a = some (some b, e.withScript l) := by
  simp [Env.answerRead, h, Env.withScript]

theorem Env.answerRead_script_held {l : List BusAnswer} (h : e.transport = .script (.held :: l)) (lock : Addr)
    (ord : Nat) (a : Addr) :
    e.answerRead lock ord a = some (some ((e.withScript l).heldByte a).1, ((e.withScript l).heldByte a).2) := by
  simp [Env.answerRead, h, Env.withScript]

/-- A read of a known register, answered with what the register holds. -/
theorem Env.answerRead_script_held_known {b : Byte} {l : List BusAnswer} (h : e.transport = .script (.held :: l))
    (lock : Addr) (ord : Nat) {a : Addr} (hb : e.peek a.toNat = some b) :
    e.answerRead lock ord a = some (some b, e.withScript l) := by
  rw [Env.answerRead_script_held h, Env.heldByte_known a _ b (by rwa [Env.withScript_peek h])]

/-- A read of an unknown register, answered with what the register holds: a draw (R39). -/
theorem Env.answerRead_script_held_unknown {l : List BusAnswer} (h : e.transport = .script (.held :: l))
    (lock : Addr) (ord : Nat) {a : Addr} (hb : e.peek a.toNat = none) :
    e.answerRead lock ord a = some (some (Config.codecByte e.draws), { e.withScript l with draws := e.draws + 1 }) := by
  rw [Env.answerRead_script_held h, Env.heldByte_unknown a _ (by rwa [Env.withScript_peek h])]
  rfl

/-- What O19 says of a write that a script answers. -/
theorem Env.answerWrite_script_spec {ans : BusAnswer} {l : List BusAnswer} (h : e.transport = .script (ans :: l))
    (ord : Nat) (a : Addr) (p : List Byte) (v : Byte) :
    ∃ e', e.answerWrite ord (encodeFrame a p) = some (decide (ans ≠ .fail), e') ∧ e'.transport = .script l ∧
      (ans = .fail ∨ 2 ≤ p.length → ∀ i < p.length, e'.peek (a + BitVec.ofNat 16 i).toNat = none) ∧
      (ans ≠ .fail → p = [v] → e.codecKnown = true → e'.peek a.toNat = some v) ∧
      ∀ x, (∀ i < p.length, x ≠ (a + BitVec.ofNat 16 i).toNat) → e'.peek x = e.peek x := by
  have hanswer := Env.answerWrite_script_cons h ord a p
  obtain ⟨-, -, hframe⟩ := Env.answerWrite_spec _ _ _ _ _ hanswer
  rw [framePayload_encodeFrame, frameAddr_encodeFrame] at hframe
  refine ⟨_, hanswer, by split <;> simp, fun hlost i hi => ?_, fun hok hp hk => ?_, hframe⟩
  · have hforget : (if ans = .fail then (e.withScript l).forget a p.length else (e.withScript l).store a p) =
        (e.withScript l).forget a p.length := by
      split
      · rfl
      · rename_i hok
        exact Env.store_of_length_ne_one (by have := hlost.resolve_left hok; omega) a _
    rw [hforget]
    exact Env.forget_peek_covered rfl a hi
  · rw [if_neg hok, hp, Env.store_singleton]
    exact Env.learn_peek_same a v _ (.inr hk)

/-- What O19 says of a read that a script answers. -/
theorem Env.answerRead_script_spec {ans : BusAnswer} {l : List BusAnswer} (h : e.transport = .script (ans :: l))
    (lock : Addr) (ord : Nat) (a : Addr) :
    ∃ got e', e.answerRead lock ord a = some (got, e') ∧ e'.transport = .script l ∧ (∀ x, e'.peek x = e.peek x) ∧
      (ans = .fail → got = none) ∧ (∀ b, ans = .ok b → got = some b) ∧
      (∀ b, ans = .held → e.peek a.toNat = some b → got = some b) ∧
      (ans = .held → e.peek a.toNat = none → got = some (Config.codecByte e.draws) ∧ e'.draws = e.draws + 1) := by
  have hpeek := Env.withScript_peek h l
  cases ans with
  | fail => exact ⟨_, _, Env.answerRead_script_fail h lock ord a, rfl, hpeek, by simp⟩
  | ok b => exact ⟨_, _, Env.answerRead_script_ok h lock ord a, rfl, hpeek, by simp⟩
  | held =>
    cases hb : e.peek a.toNat with
    | some b => exact ⟨_, _, Env.answerRead_script_held_known h lock ord hb, rfl, hpeek, by simp⟩
    | none => exact ⟨_, _, Env.answerRead_script_held_unknown h lock ord hb, rfl, hpeek, by simp⟩

/-- Settles O19: the empty script, and one answer of a script to a write and to a read. -/
theorem scriptedTransport : Obligations.ScriptedTransport := by
  intro e ord lock a p ans l v
  exact ⟨fun h => ⟨Env.answerWrite_script_nil h ord _, Env.answerRead_script_nil h lock ord a⟩,
    fun h => ⟨Env.answerWrite_script_spec h ord a p v, Env.answerRead_script_spec h lock ord a⟩⟩

/-! ### The mock bus (R68) -/

variable {script : List Byte} {fails : List Nat}

theorem Env.isMock_of_mock (h : e.transport = .mock script fails) : e.isMock = true := by
  simp [Env.isMock, h]

theorem Env.popLock_of_ne {lock a : Addr} (ha : a ≠ lock) (e : Env) : e.popLock lock a = e := by
  unfold Env.popLock
  split
  · rfl
  · rw [if_neg ha]

theorem Env.popLock_mock (h : e.transport = .mock script fails) (lock : Addr) :
    e.popLock lock lock = { e with transport := .mock (nextLockScript script) fails } := by
  simp [Env.popLock, h]

/-- The last byte of a lock script stays. -/
theorem nextLockScript_cons (b : Byte) (l : List Byte) : nextLockScript (b :: l) = if l = [] then [b] else l := by
  cases l <;> rfl

/-- Every register of the mock is known: an unlisted one holds 0. -/
theorem Env.peek_of_mock (hm : e.isMock = true) (x : Nat) : ∃ b, e.peek x = some b := by
  unfold Env.peek
  split
  · exact ⟨_, rfl⟩
  · exact ⟨0#8, by rw [if_pos hm]⟩

theorem Env.answerWrite_mock_fail (h : e.transport = .mock script fails) {ord : Nat} (ho : ord ∈ fails)
    (bytes : List Byte) : e.answerWrite ord bytes = some (false, e) := by
  simp [Env.answerWrite, h, ho]

theorem Env.answerWrite_mock_ok (h : e.transport = .mock script fails) {ord : Nat} (ho : ord ∉ fails) (a : Addr)
    (p : List Byte) : e.answerWrite ord (encodeFrame a p) = some (true, e.store a p) := by
  simp [Env.answerWrite, h, ho]

theorem Env.answerRead_mock_fail (h : e.transport = .mock script fails) {ord : Nat} (ho : ord ∈ fails)
    (lock a : Addr) : e.answerRead lock ord a = some (none, e.popLock lock a) := by
  simp [Env.answerRead, h, ho]

theorem Env.answerRead_mock_register (h : e.transport = .mock script fails) {ord : Nat} (ho : ord ∉ fails)
    {lock a : Addr} {b : Byte} (ha : a ≠ lock) (hb : e.peek a.toNat = some b) :
    e.answerRead lock ord a = some (some b, e) := by
  simp [Env.answerRead, h, ho, ha, Env.popLock_of_ne ha, Env.heldByte_known a e b hb]

theorem Env.answerRead_mock_lock {b : Byte} {l : List Byte} (h : e.transport = .mock (b :: l) fails) {ord : Nat}
    (ho : ord ∉ fails) (lock : Addr) : e.answerRead lock ord lock =
      some (some b, { e with transport := .mock (if l = [] then [b] else l) fails }) := by
  simp [Env.answerRead, h, ho, Env.popLock_mock h, nextLockScript_cons]

/-- Settles O20: a transaction in the fail set; outside it a write of one byte, of more, a read of a register, a read of
the lock status. -/
theorem mockBusAnswers : Obligations.MockBusAnswers := by
  intro e script fails ord lock a p h
  have hm := Env.isMock_of_mock h
  refine ⟨fun ho => ⟨Env.answerWrite_mock_fail h ho _, _, Env.answerRead_mock_fail h ho lock a, fun x => ?_⟩,
    fun ho => ⟨?_, fun hp => ?_, fun ha => ?_, ?_⟩⟩
  · exact Env.peek_congr (Env.popLock_regs lock a e) (Env.popLock_same lock a e).isMock x
  · rintro v rfl
    exact ⟨_, Env.answerWrite_mock_ok h ho a [v], Env.store_transport a [v] e, Env.learn_peek_same a v e (.inl hm),
      fun x hx => Env.learn_peek_other a v e x hx⟩
  · rw [Env.answerWrite_mock_ok h ho, Env.store_of_length_ne_one (by omega), Env.forget_of_mock hm]
  · obtain ⟨b, hb⟩ := Env.peek_of_mock hm a.toNat
    exact ⟨b, hb, Env.answerRead_mock_register h ho ha hb⟩
  · rintro b l rfl rfl
    exact Env.answerRead_mock_lock h ho a

end Sys2Proof.Machine
end

section
/-! SUPPORT. The bits PACK writes and those it leaves (R143, R147), and an RMW alone on the bus (O26; R64, R144). -/

namespace Sys2Proof

variable {cfg : Config} {c : Channel} {sd : Side}

/-! ### PACK, by the mask of the bits a side owns -/

/-- Bits outside a mask, read through another mask that is disjoint from it. -/
theorem and_eq_and_of_outside {w t own mask : Byte} (h : w &&& ~~~ own = t &&& ~~~ own) (hd : mask &&& own = 0#8) :
    w &&& mask = t &&& mask := by
  have hmask : mask = ~~~ own &&& mask := by
    ext i hi
    have := congrArg (fun v : Byte => v[i]) hd
    simp only [BitVec.getElem_and, BitVec.getElem_not, BitVec.getElem_zero] at this ⊢
    grind
  rw [hmask, ← BitVec.and_assoc, h, BitVec.and_assoc]

/-- The bits owned by a mask are disjoint from the others. -/
theorem not_and_self_of_le {own mask : Byte} (h : own &&& mask = own) : ~~~ mask &&& own = 0#8 := by
  rw [← h, BitVec.and_comm own, ← BitVec.and_assoc]
  simp

/-- A code that fits its field keeps all its bits there (R143). -/
theorem Config.shiftLeft_and_fieldMask (hw : (cfg.chan c).codeWidth ≤ 8) {k : Byte}
    (hk : k.toNat < 2 ^ (cfg.chan c).codeWidth) :
    (k <<< cfg.codeLsb c sd) &&& cfg.fieldMask c sd = k <<< cfg.codeLsb c sd := by
  have hpow : 2 ^ (cfg.chan c).codeWidth ≤ 2 ^ 8 := Nat.pow_le_pow_right (by decide) hw
  have hcode : k &&& BitVec.ofNat 8 (2 ^ (cfg.chan c).codeWidth - 1) = k := by
    apply BitVec.eq_of_toNat_eq
    rw [BitVec.toNat_and, BitVec.toNat_ofNat, Nat.mod_eq_of_lt (by omega), Nat.and_two_pow_sub_one_eq_mod,
      Nat.mod_eq_of_lt hk]
  rw [Config.fieldMask, ← BitVec.shiftLeft_and_distrib, hcode]

/-- The enables are bits of the enable mask (R140). -/
theorem Config.enableBits_and_enMask (cfg : Config) (c : Channel) (sd : Side) (m : Bool) :
    cfg.enableBits c sd m &&& cfg.enMask c sd = cfg.enableBits c sd m := by
  cases m <;> simp [Config.enableBits]

/-- PACK leaves every bit its side does not own (R147). -/
theorem Config.packByte_foreign (cfg : Config) (c : Channel) (sd : Side) (t k : Byte) (m : Bool) :
    cfg.packByte c sd t k m &&& ~~~ cfg.ownMask c sd = t &&& ~~~ cfg.ownMask c sd := by
  ext i hi
  have henable := congrArg (fun v : Byte => v[i]) (cfg.enableBits_and_enMask c sd m)
  simp only [Config.packByte, Config.ownMask, BitVec.getElem_and, BitVec.getElem_or, BitVec.getElem_not] at henable ⊢
  grind

/-- PACK writes the bits its side owns: the code in its field, and the enables unless muted (R143). -/
theorem Config.packByte_owned (hw : (cfg.chan c).codeWidth ≤ 8) {k : Byte}
    (hk : k.toNat < 2 ^ (cfg.chan c).codeWidth) (t : Byte) (m : Bool) :
    cfg.packByte c sd t k m &&& cfg.ownMask c sd = (k <<< cfg.codeLsb c sd) ||| cfg.enableBits c sd m := by
  have hfield := Config.shiftLeft_and_fieldMask (sd := sd) hw hk
  rw [Config.packByte, hfield]
  generalize k <<< cfg.codeLsb c sd = code at hfield
  ext i hi
  have hcode := congrArg (fun v : Byte => v[i]) hfield
  have henable := congrArg (fun v : Byte => v[i]) (cfg.enableBits_and_enMask c sd m)
  simp only [Config.ownMask, BitVec.getElem_and, BitVec.getElem_or, BitVec.getElem_not] at hcode henable ⊢
  grind

/-! ### What a well-formed configuration says of a channel in use (R10, R11) -/

theorem Config.micIn_of_inUse (hu : cfg.inUse c = true) : c = .micIn → cfg.hasMic = true := by
  rintro rfl
  simpa [Config.inUse] using hu

theorem Config.codeWidth_le (hwf : cfg.wellFormed = true) (hu : cfg.inUse c = true) :
    (cfg.chan c).codeWidth ≤ 8 := by
  obtain ⟨-, -, -, -, -, hfields, -⟩ := (Config.wellFormed_iff cfg).mp hwf
  have := ((Config.fieldsFit_iff cfg).mp hfields c .left (Config.micIn_of_inUse hu)).2
  omega

/-- The two sides of a register they share own different bits of it (condition (9)). -/
theorem Config.ownMask_disjoint_of_shared (hwf : cfg.wellFormed = true) (hu : cfg.inUse c = true)
    (ha : cfg.regAddr c .left = cfg.regAddr c .right) : cfg.ownMask c .left &&& cfg.ownMask c .right = 0#8 := by
  obtain ⟨-, -, -, -, -, -, -, -, hown, -⟩ := (Config.wellFormed_iff cfg).mp hwf
  have hmic := Config.micIn_of_inUse hu
  exact (Config.ownersDisjoint_iff cfg).mp hown c .left c .right hmic hmic (by simp) ha

/-! ### Both sides of a shared register, one PACK after the other (R145) -/

theorem Config.packBoth_foreign (cfg : Config) (c : Channel) (kl kr t : Byte) (m : Bool) :
    cfg.packByte c .right (cfg.packByte c .left t kl m) kr m &&& ~~~ (cfg.ownMask c .left ||| cfg.ownMask c .right) =
      t &&& ~~~ (cfg.ownMask c .left ||| cfg.ownMask c .right) :=
  calc
    _ = cfg.packByte c .left t kl m &&& ~~~ (cfg.ownMask c .left ||| cfg.ownMask c .right) :=
      and_eq_and_of_outside (cfg.packByte_foreign c .right _ kr m) (not_and_self_of_le (by grind))
    _ = _ := and_eq_and_of_outside (cfg.packByte_foreign c .left t kl m) (not_and_self_of_le (by grind))

/-- Each side's bits are those it writes: the right side's PACK leaves the left side's. -/
theorem Config.packBoth_owned (t : Byte) (m : Bool) (k : Side → Byte) (hw : (cfg.chan c).codeWidth ≤ 8)
    (hk : ∀ sd, (k sd).toNat < 2 ^ (cfg.chan c).codeWidth)
    (hd : cfg.ownMask c .left &&& cfg.ownMask c .right = 0#8) (sd : Side) :
    cfg.packByte c .right (cfg.packByte c .left t (k .left) m) (k .right) m &&& cfg.ownMask c sd =
      (k sd <<< cfg.codeLsb c sd) ||| cfg.enableBits c sd m := by
  cases sd with
  | left =>
    rw [and_eq_and_of_outside (cfg.packByte_foreign c .right _ _ m) hd]
    exact Config.packByte_owned hw (hk .left) t m
  | right => exact Config.packByte_owned hw (hk .right) _ m

end Sys2Proof

namespace Sys2Proof.Machine

variable {s : State} {a : Addr} {f : ByteFn}

/-! ### RMW as an instruction (R144) -/

@[simp] theorem Env.noteRead_codecKnown (cfg : Config) (a : Addr) (g : Option Byte) (e : Env) :
    (e.noteRead cfg a g).codecKnown = e.codecKnown := by cases g <;> rfl

/-- An RMW on channels in use does its current transaction. -/
theorem exec_rmw (hf : f.wellFormed s.cfg = true) : exec (.rmw a f) s =
    .next (report (.rmw a f) (s.callAt (.rmw a f)) .fail (rmw (s.callAt (.rmw a f)) a f s)) := by
  cases f with
  | pack c sd k m =>
    obtain ⟨hu, -⟩ : s.cfg.inUse c = true ∧ _ := by simpa [ByteFn.wellFormed] using hf
    simp [exec, execRmw, withChannel, hu]
  | packBoth c kl kr m =>
    obtain ⟨⟨hu, -⟩, -⟩ : (s.cfg.inUse c = true ∧ _) ∧ _ := by simpa [ByteFn.wellFormed] using hf
    simp [exec, execRmw, withChannel, hu]
  | table t => rfl

/-- The state after the read of an RMW that returned `b`. -/
def rmwRead (a : Addr) (f : ByteFn) (b : Byte) (e : Env) (s : State) : State :=
  { gotRead a (some b) e s with idx := s.idx + 1, tmp := b, res := .pending, call := some (.rmw a f, 1) }

/-- The state after the write-back of an RMW that returned `Ok`. -/
def rmwWritten (a : Addr) (f : ByteFn) (e : Env) (s : State) : State :=
  { wrote false (encodeFrame a [f.apply s.cfg s.tmp]) true e s with idx := s.idx + 1, res := .ok, call := none }

theorem rmwRead_env (a : Addr) (f : ByteFn) (b : Byte) (e : Env) (s : State) :
    (rmwRead a f b e s).env = e.noteRead s.cfg a (some b) := rfl

theorem rmwRead_callAt (a : Addr) (f : ByteFn) (b : Byte) (e : Env) (s : State) :
    (rmwRead a f b e s).callAt (.rmw a f) = 1 := by simp [State.callAt, rmwRead]

theorem rmwWritten_peek (a : Addr) (f : ByteFn) (e : Env) (s : State) (y : Nat) :
    (rmwWritten a f e s).env.peek y = e.peek y := by simp [rmwWritten, wrote]

theorem exec_rmw_read {b : Byte} {e : Env} (hf : f.wellFormed s.cfg = true) (hn : s.callAt (.rmw a f) = 0)
    (h : s.answerRead a = some (some b, e)) : exec (.rmw a f) s = .next (rmwRead a f b e s) := by
  rw [exec_rmw hf, hn]
  simp [rmw, readReg_ok a b h, report, rmwRead]

theorem exec_rmw_write {e : Env} (hf : f.wellFormed s.cfg = true) (hn : s.callAt (.rmw a f) = 1)
    (h : s.answerWrite (encodeFrame a [f.apply s.cfg s.tmp]) = some (true, e)) :
    exec (.rmw a f) s = .next (rmwWritten a f e s) := by
  rw [exec_rmw hf, hn]
  simp [rmw, send_ok _ _ _ h, report, rmwWritten]

/-- Alone on the bus an RMW leaves `f` of the register's content in it, and touches no other register (R64). -/
theorem again_rmw_held {b x : Byte} {rest : List BusAnswer} (hf : f.wellFormed s.cfg = true)
    (hn : s.callAt (.rmw a f) = 0) (hk : s.env.codecKnown = true) (hb : s.env.peek a.toNat = some b)
    (ht : s.env.transport = .script (.held :: .ok x :: rest)) :
    ∃ t, again (.rmw a f) 2 s = .next t ∧ t.res = .ok ∧ t.env.peek a.toNat = some (f.apply s.cfg b) ∧
      SameOutside a 1 s t := by
  let u := rmwRead a f b (s.env.withScript (.ok x :: rest)) s
  have huenv : u.env = (s.env.withScript (.ok x :: rest)).noteRead s.cfg a (some b) := rmwRead_env ..
  have hread : exec (.rmw a f) s = .next u := exec_rmw_read hf hn (Env.answerRead_script_held_known ht _ _ hb)
  have hupeek (y : Nat) : u.env.peek y = s.env.peek y := by rw [huenv, Env.noteRead_peek, Env.withScript_peek ht]
  obtain ⟨e, hanswer, -, -, hbyte, hframe⟩ := Env.answerWrite_script_spec (e := u.env) (l := rest) (ans := .ok x)
    (by simp [huenv]) u.trace.length a [f.apply s.cfg b] (f.apply s.cfg b)
  have hwrite : exec (.rmw a f) u = .next (rmwWritten a f e u) :=
    exec_rmw_write hf (rmwRead_callAt ..) hanswer
  refine ⟨rmwWritten a f e u, by simp only [again, hread, hwrite], rfl, ?_, fun y hy => ?_⟩
  · rw [rmwWritten_peek]
    exact hbyte (by simp) rfl (by simpa [huenv] using hk)
  · rw [rmwWritten_peek, hframe y hy, hupeek]

/-- Settles O26: `again_rmw_held` with the byte that PACK makes of one side, and of both. -/
theorem rmwKeepsForeignBitsOfCodec : Obligations.RmwKeepsForeignBitsOfCodec := by
  intro s a c k b x m rest hwf hu hk hknown hb ht owned both
  have hw : (s.cfg.chan c).codeWidth ≤ 8 := Config.codeWidth_le hwf hu
  refine ⟨fun sd hn => ?_, fun ha hn => ?_⟩
  · have hf : (ByteFn.pack c sd (k sd) m).wellFormed s.cfg = true := by
      simp [ByteFn.wellFormed, Config.codeFits, hu, hk]
    obtain ⟨t, hrun, hres, hpeek, hout⟩ := again_rmw_held hf hn hknown hb ht
    exact ⟨t, _, hrun, hres, hpeek, Config.packByte_foreign .., Config.packByte_owned hw (hk sd) b m, hout⟩
  · have hf : (ByteFn.packBoth c (k .left) (k .right) m).wellFormed s.cfg = true := by
      simp [ByteFn.wellFormed, Config.codeFits, hu, hk]
    obtain ⟨t, hrun, hres, hpeek, hout⟩ := again_rmw_held hf hn hknown hb ht
    exact ⟨t, _, hrun, hres, hpeek, Config.packBoth_foreign ..,
      Config.packBoth_owned b m k hw hk (Config.ownMask_disjoint_of_shared hwf hu ha), hout⟩

end Sys2Proof.Machine
end

section
/-! SUPPORT. What a transaction that fails, and one that is never answered, does to the operation (O54, O59; R62, R69). -/

namespace Sys2Proof.Machine

variable {s u t : State}

/-! ### A failed transaction ends the operation (R62, R212) -/

/-- The last transaction failed exactly when the operation ended with `BusError`; `ST` stays, one response is written. -/
structure EndsIfFailed (u t : State) (x : TraceEntry) : Prop where
  failed_iff : x.isFail = true ↔ t.busy = false ∧ t.errKind = .err .busError
  st : x.isFail = true → t.st = u.st
  responses : x.isFail = true → t.responses.length = u.responses.length + 1

/-- A transaction that succeeded, and whose operation goes on or ends with another status than `BusError`. -/
theorem EndsIfFailed.of_ok {x : TraceEntry} (hx : x.isFail = false)
    (h : t.busy = true ∨ t.errKind ≠ .err .busError) : EndsIfFailed u t x := by
  have hne : ¬ (t.busy = false ∧ t.errKind = .err .busError) := by
    rintro ⟨hb, hk⟩
    exact h.elim (fun hb' => absurd (hb.symm.trans hb') (by decide)) (absurd hk)
  exact ⟨by simp [hx, hne], by simp [hx], by simp [hx]⟩

theorem EndsIfFailed.of_fail {x : TraceEntry} (hx : x.isFail = true) (hb : t.busy = false)
    (hk : t.errKind = .err .busError) (hst : t.st = u.st) (hr : t.responses = u.responses ++ [t.rspWord]) :
    EndsIfFailed u t x :=
  ⟨by simp [hx, hb, hk], fun _ => hst, fun _ => by simp [hr]⟩

/-- An operation in progress, by what its transaction came to. -/
theorem BusyEffect.endsIfFailed (h : BusyEffect u t) (hb : u.busy = true) {x : TraceEntry}
    (hx : t.trace = u.trace ++ [x]) : EndsIfFailed u t x := by
  have same {y : TraceEntry} (hy : t.trace = u.trace ++ [y]) : x = y := by simpa [hx] using hy
  cases h with
  | quiet trace | ended trace => simp [hx] at trace
  | wrote _ _ _ _ _ _ _ trace _ ending =>
    cases same trace
    exact .of_ok rfl (ending.imp (fun ⟨_, hbusy⟩ => hbusy.trans hb) fun ⟨_, _, hk, _⟩ => by simp [hk])
  | read _ _ _ _ _ trace _ ending =>
    cases same trace
    exact .of_ok rfl (ending.imp (fun ⟨_, hbusy⟩ => hbusy.trans hb) fun ⟨_, _, hk, _⟩ => by simp [hk])
  | writeFailed _ _ _ _ _ _ _ trace _ responses busy kind st =>
    cases same trace
    exact .of_fail rfl busy kind st responses
  | readFailed _ _ _ _ trace _ responses busy kind st =>
    cases same trace
    exact .of_fail rfl busy kind st responses

/-- The transaction of a step is one of an operation that was in progress, and was executed in the settled state. -/
theorem step_effect_of_transaction (h : step s = .next t) {x : TraceEntry} (hx : t.trace = s.trace ++ [x]) :
    s.busy = true ∧ ∃ t0, BusyEffect (settle (intake s)) t0 ∧ t = land (intake s) (settle (intake s)) t0 := by
  have hne : t.trace ≠ s.trace := by simp [hx]
  obtain ⟨-, ⟨-, rfl⟩ | ⟨-, u, rfl, ⟨hb, t0, heff, -, hl⟩ | ⟨hb, -, hl⟩ | ⟨-, -, rfl⟩ |
    ⟨hb, w, rest, -, haccept⟩⟩⟩ := step_effect h
  · exact absurd (intake_trace s) hne
  · exact ⟨hb, t0, heff, hl⟩
  · exact ⟨hb, _, .quiet rfl rfl rfl rfl (.inl rfl) rfl, hl⟩
  · exact absurd (by simp) hne
  · refine absurd ?_ hne
    rcases haccept with ⟨-, rfl⟩ | ⟨-, haccept⟩
    · simp [acceptBadWord]
    · simpa using (exec_opInstr_idle_frame (by simpa using hb) haccept).2

/-- Landing keeps it so: an operation that goes on has not failed, and one that ends stays as it is (R14). -/
theorem endsIfFailed_land {v : State} (hb : v.busy = true) (heff : BusyEffect (settle v) t) {x : TraceEntry}
    (hx : (land v (settle v) t).trace = v.trace ++ [x]) : EndsIfFailed (settle v) (land v (settle v) t) x := by
  have hub : (settle v).busy = true := by simpa using hb
  rcases land_cases v hub heff with ⟨-, hl⟩ | ⟨-, -, -, hl⟩ | ⟨-, htr, -, hl⟩ | ⟨htb, -, hl⟩ <;> rw [hl] at hx ⊢
  · exact heff.endsIfFailed hub (by simpa using hx)
  · simp at hx
  · simp [htr] at hx
  · have ht := heff.endsIfFailed hub (x := x) (by simpa using hx)
    refine .of_ok ?_ (.inl htb)
    by_contra hfail
    exact absurd ((ht.failed_iff.mp (by simpa using hfail)).1.symm.trans htb) (by decide)

/-- Settles O54: `endsIfFailed_land` for the operation whose transaction the step added to the trace. -/
theorem failureEndsOperation : Obligations.FailureEndsOperation := by
  intro s t h x hx
  obtain ⟨hb, t0, heff, rfl⟩ := step_effect_of_transaction h hx
  obtain ⟨hiff, hst, hresp⟩ := endsIfFailed_land (by simpa using hb) heff (x := x) (by simpa using hx)
  refine ⟨hiff, fun hf => ⟨(hst hf).trans ?_, by simpa using hresp hf⟩⟩
  rw [settle_intake]

/-! ### A transaction that is never answered (R69, U15) -/

/-- The transport answers no transaction issued now. -/
structure State.Unanswered (s : State) : Prop where
  write : ∀ bytes, s.answerWrite bytes = none
  read : ∀ a, s.answerRead a = none

theorem State.unanswered_of_empty_script (h : s.env.transport = .script []) : s.Unanswered :=
  ⟨fun bytes => Env.answerWrite_script_nil h _ bytes, fun a => Env.answerRead_script_nil h _ _ a⟩

/-- Executing the operation in progress adds nothing to the trace and does not end it. -/
def GoesOnQuietly (u : State) (o : Host.Outcome State Fault Refusal) : Prop :=
  ∃ t, o = .next t ∧ t.busy = u.busy ∧ t.trace = u.trace

theorem goesOnQuietly_of_eq_enter {o : Host.Outcome State Fault Refusal} (h : o = .next (enter u)) :
    GoesOnQuietly u o := ⟨_, h, by simp, by simp⟩

theorem clkselStep_unanswered (h : u.Unanswered) (v : Byte) (target : SeqState) :
    clkselStep v target (enter u) = enter u := by
  simp [clkselStep, send_wait _ _ _ ((enter_answerWrite u _).trans (h.write _))]

/-- T2 waits with its write; only an empty payload would be refused, which R11 (10) rules out. -/
theorem execT2_unanswered (h : u.Unanswered) (hw : u.cfg.wellFormed = true)
    (hn : u.cfg.pllCommands.entries[(enter u).idx.toNat]? ≠ none) : execT2 u = .next (enter u) := by
  obtain ⟨k, hk⟩ := Option.ne_none_iff_exists'.mp hn
  have hp : k.payload ≠ [] := by
    obtain ⟨-, -, -, -, -, -, -, -, -, hpay, -⟩ := (Config.wellFormed_iff u.cfg).mp hw
    exact (Config.payloadsOk_iff u.cfg).mp hpay k (List.mem_of_getElem? hk)
  have hsend := send_wait true k.addr k.payload ((enter_answerWrite u _).trans (h.write _))
  cases hc : u.cfg.pllCommands with
  | boardError => simp [hc, HookResult.entries] at hk
  | ok cmds =>
    rw [hc, HookResult.entries] at hk
    simp only [execT2, hc, hk, List.isEmpty_iff, hp, if_false, hsend]

theorem execT3_unanswered (h : u.Unanswered) : execT3 u = .next (enterPoll u) := by
  simp [execT3, readReg_wait _ ((enterPoll_answerRead u _).trans (h.read _))]

theorem execT5_unanswered (h : u.Unanswered) (hn : u.cfg.boardTable.entries[(enter u).idx.toNat]? ≠ none) :
    execT5 u = .next (enter u) := by
  obtain ⟨row, hr⟩ := Option.ne_none_iff_exists'.mp hn
  cases hc : u.cfg.boardTable with
  | boardError => simp [hc, HookResult.entries] at hr
  | ok rows =>
    rw [hc, HookResult.entries] at hr
    simp only [execT5, hc, sendRow_wait _ _ row hr ((enter_answerWrite u _).trans (h.write _))]

/-- A list of SET_GAINs waits with its current transaction. -/
theorem gainStep_unanswered (h : u.Unanswered) {n : Nat} {moves : List GainMove} (l r : ExtRat) (m : Bool)
    (hn : gainRequest n moves m u ≠ none) :
    ∃ mv, gainStep n moves l r m u = (enterGain n mv l r u, .wait) := by
  rcases gainStep_cases n moves l r m u with
    ⟨hm, -⟩ | ⟨mv, -, hs | ⟨-, e, ha, -⟩ | ⟨-, b, e, ha, -⟩ | ⟨-, e, ha, -⟩ | ⟨-, e, ha, -⟩⟩
  · simp [gainRequest, hm] at hn
  · exact ⟨mv, hs⟩
  all_goals simp [h.read, h.write] at ha

theorem gainRequest_enter (n : Nat) (moves : List GainMove) (m : Bool) (u : State) :
    gainRequest n moves m (enter u) = gainRequest n moves m u := by
  simp [gainRequest]

theorem execT6_unanswered (h : u.Unanswered)
    (hn : gainRequest (enter u).idx.toNat (defaultMoves u.cfg) false u ≠ none) : GoesOnQuietly u (execT6 u) := by
  have henter : (enter u).Unanswered :=
    ⟨fun _ => (enter_answerWrite u _).trans (h.write _), fun _ => (enter_answerRead u _).trans (h.read _)⟩
  obtain ⟨mv, hg⟩ := gainStep_unanswered henter (.fin 0) (.fin 0) false (by rwa [gainRequest_enter])
  rw [execT6_eq u _ hg]
  exact ⟨_, rfl, by simp, by simp⟩

/-- A START waits with the transaction `ST` and `IDX` select. -/
theorem transition_unanswered (h : u.Unanswered) (hw : u.cfg.wellFormed = true) (hb : u.busy = true)
    (ho : u.op = 0#3) (hn : requestOf u ≠ none) : GoesOnQuietly u (exec (transitionOf u.st) u) := by
  rw [requestOf_start u hb ho] at hn
  cases hst : u.st <;> simp only [hst] at hn
  case reset => exact goesOnQuietly_of_eq_enter (congrArg _ (clkselStep_unanswered h _ _))
  case clockSourceDefault =>
    exact goesOnQuietly_of_eq_enter (execT2_unanswered h hw fun hnone => hn (by rw [hnone]))
  case pllConfiguring => exact ⟨_, execT3_unanswered h, by simp, by simp⟩
  case pllLocked => exact goesOnQuietly_of_eq_enter (congrArg _ (clkselStep_unanswered h _ _))
  case clockSourcePll =>
    exact goesOnQuietly_of_eq_enter (execT5_unanswered h fun hnone => hn (by rw [hnone]))
  case boardConfiguring => exact execT6_unanswered h hn
  case ready => exact absurd rfl hn

/-- A gain command waits with the transaction `OP` and `IDX` select. -/
theorem gain_unanswered (h : u.Unanswered) (hb : u.busy = true) (ho : u.op ≠ 0#3) (hn : requestOf u ≠ none) :
    GoesOnQuietly u (exec (opInstr u.op u.leftDb u.rightDb u.mute) u) := by
  rw [exec_opInstr_busy u hb ho]
  split
  · exact ⟨u, rfl, rfl, rfl⟩
  · rw [requestOf_gain u hb ho] at hn
    obtain ⟨mv, hg⟩ := gainStep_unanswered h (f32Value u.leftDb) (f32Value u.rightDb) u.mute hn
    exact ⟨_, rfl, by rw [gainBody_eq u _ _ hg]; simp, by rw [gainBody_eq u _ _ hg]; simp⟩

theorem busy_of_requestOf {r : BusReq} (h : requestOf u = some r) : u.busy = true := by
  by_contra hb
  simp [requestOf, hb] at h

/-- A step in which the block's transaction is not answered changes nothing. -/
theorem step_unanswered {r : BusReq} (hw : s.cfg.wellFormed = true) (hs : s.env.stimuli = [])
    (ht : s.env.transport = .script []) (hn : nextRequest s = some r) : step s = .next s := by
  have hin : intake s = s := intake_of_no_stimuli hs
  have hub : (settle s).busy = true := busy_of_requestOf hn
  have hsome : requestOf (settle s) ≠ none := by simp [show requestOf (settle s) = some r from hn]
  have hun : (settle s).Unanswered := State.unanswered_of_empty_script (by simpa using ht)
  obtain ⟨i, hf, t, hx, htb, htr⟩ : ∃ i, fetch (settle s) = .run i ∧ GoesOnQuietly (settle s) (exec i (settle s)) := by
    by_cases ho : (settle s).op = 0#3
    · exact ⟨_, fetch_start _ hub ho, transition_unanswered hun (by simpa using hw) hub ho hsome⟩
    · exact ⟨_, fetch_gain _ hub ho, gain_unanswered hun hub ho hsome⟩
  have hstep := step_of_busy hw (rstHigh_of_no_stimuli hs) (by simpa using hub) (by rwa [hin])
  rw [hin, hx, landOutcome] at hstep
  rw [hstep, land_waits _ _ _ hub (htb.trans hub) (Option.isSome_iff_ne_none.mpr hsome) htr]

/-- A state that a step leaves as it is stays so for every number of steps. -/
theorem run_of_step_self (h : step s = .next s) (n : Nat) : Host.Core.run core n s = .next s := by
  induction n with
  | zero => rfl
  | succ n ih =>
    have hstep : core.step s = .next s := h
    simp only [Host.Core.run, hstep]
    exact ih

/-- Settles O59: such a step leaves the state as it is, and so does any number of them. -/
theorem unansweredTransactionWaits : Obligations.UnansweredTransactionWaits := by
  intro s r n hw hs ht hn
  refine ⟨run_of_step_self (step_unanswered hw hs ht hn) n, ?_⟩
  simpa using busy_of_requestOf hn

end Sys2Proof.Machine
end

section
/-! SUPPORT. What other agents do in a step: it reaches the environment only, before the block acts (O60; R39, R60). -/

namespace Sys2Proof.Machine

variable {s : State} {x : Stimulus} {rest : List Stimulus} {w : BitVec 72} {more : List (BitVec 72)}

/-! ### What an event leaves alone: the answers and the stimuli still to come -/

@[simp] theorem Env.event_transport (cfg : Config) (ev : EnvEvent) (e : Env) :
    (e.event cfg ev).transport = e.transport := by
  cases ev with
  | clientWrite a p => simp [Env.event]
  | codecChange a v =>
    cases v with
    | some v => simp [Env.event]
    | none =>
      simp only [Env.event]
      split <;> simp [Env.draw]
  | codecReset => rfl

@[simp] theorem Env.event_stimuli (cfg : Config) (ev : EnvEvent) (e : Env) : (e.event cfg ev).stimuli = e.stimuli := by
  cases ev with
  | clientWrite a p => exact (Env.store_same a p _).stimuli
  | codecChange a v =>
    cases v with
    | some v => exact (Env.learn_same a v e).stimuli
    | none =>
      simp only [Env.event]
      split
      · exact (Env.learn_same a _ e.draw.2).stimuli
      · exact (Env.forget_same a 1 e).stimuli
  | codecReset => rfl

theorem Env.happen_inputs (cfg : Config) (evs : List EnvEvent) :
    ∀ e : Env, (e.happen cfg evs).transport = e.transport ∧ (e.happen cfg evs).stimuli = e.stimuli := by
  induction evs with
  | nil => exact fun e => ⟨rfl, rfl⟩
  | cons ev evs ih =>
    intro e
    obtain ⟨htransport, hstimuli⟩ := ih (e.event cfg ev)
    exact ⟨htransport.trans (Env.event_transport cfg ev e), hstimuli.trans (Env.event_stimuli cfg ev e)⟩

/-! ### The intake of a step with a stimulus -/

theorem rstHigh_of_stimulus (h : s.env.stimuli = x :: rest) : rstHigh s = x.rst := by simp [rstHigh, h]

theorem intake_env_of_stimulus (h : s.env.stimuli = x :: rest) :
    (intake s).env = ({ s.env with stimuli := rest } : Env).happen s.cfg x.events := by simp [intake, h]

theorem intake_inputs (s : State) :
    (intake s).env.transport = s.env.transport ∧ (intake s).env.stimuli = s.env.stimuli.tail := by
  cases h : s.env.stimuli with
  | nil => simp [intake_of_no_stimuli h, h]
  | cons x rest =>
    rw [intake_env_of_stimulus h]
    exact Env.happen_inputs _ _ _

/-- A client's one-byte write sets its register and no other. -/
theorem intake_clientWrite {b : Bool} {a : Addr} {v : Byte} (h : s.env.stimuli = ⟨b, [.clientWrite a [v]]⟩ :: rest)
    (hk : s.env.isMock = true ∨ s.env.codecKnown = true) :
    (intake s).env.peek a.toNat = some v ∧ ∀ y, y ≠ a.toNat → (intake s).env.peek y = s.env.peek y := by
  let pll := s.cfg.pllCommands.entries.any fun k => k.addr == a
  have henv : (intake s).env =
      (({ s.env with stimuli := rest } : Env).noteWrite s.cfg pll a [v]).learn a v := intake_env_of_stimulus h
  rw [henv]
  exact ⟨Env.learn_peek_same _ _ _ hk, fun y hy => Env.learn_peek_other _ _ _ _ hy⟩

/-- The codec's own reset leaves no register known (R39, U18). -/
theorem intake_codecReset {b : Bool} (hm : s.env.isMock = false) (h : s.env.stimuli = ⟨b, [.codecReset]⟩ :: rest)
    (y : Nat) : (intake s).env.peek y = none := by
  have hregs : (intake s).env.regs = [] := by
    rw [intake_env_of_stimulus h]
    show (if s.env.isMock then s.env.regs else []) = []
    simp [hm]
  have hmock : (intake s).env.isMock = false := (Env.isMock_congr (intake_inputs s).1).trans hm
  simp [Env.peek, hregs, hmock]

/-! ### The block's action in a step, beside those that `step_of_word`, `step_of_busy` and `step_of_no_word` name -/

theorem step_of_rst (hw : s.cfg.wellFormed = true) (hr : rstHigh s = true) :
    step s = .next (applyRst (intake s)) := by simp [step, hw, hr]

theorem fetchWord_of_decode_error {er : DecodeError} (h : decode (.cmd w) = .error er) : fetchWord w = .illegal w := by
  simp [fetchWord, h]

theorem step_of_bad_word {er : DecodeError} (hw : s.cfg.wellFormed = true) (hr : rstHigh s = false)
    (hb : s.busy = false) (hc : s.cmdIn = w :: more) (hd : decode (.cmd w) = .error er) :
    step s = .next (acceptBadWord w { settle (intake s) with cmdIn := more }) := by
  have hb' : (settle (intake s)).busy = false := by simpa using hb
  have hc' : (settle (intake s)).cmdIn = w :: more := by simpa using hc
  have hf : fetch (settle (intake s)) = .illegal w := (fetch_of_word hb' hc').trans (fetchWord_of_decode_error hd)
  simp [step, hw, hr, hf, takeWord_of_word hb' hc']

/-- Settles O60: the step by what the block takes up in the state that the intake leaves, and the intake by its event. -/
theorem otherAgentsReachCodecOnly : Obligations.OtherAgentsReachCodecOnly := by
  refine ⟨?_, fun s => ⟨(intake s).env, intake_block s s rfl rfl, intake_inputs s⟩,
    fun s a v b rest h hk => intake_clientWrite h hk, fun s b rest hm h => intake_codecReset hm h⟩
  intro s x rest hw h v u
  refine ⟨intake_env_of_stimulus h, settle_env _, fun hx => step_of_rst hw ((rstHigh_of_stimulus h).trans hx),
    fun hx => ?_⟩
  have hr : rstHigh s = false := (rstHigh_of_stimulus h).trans hx
  have hbusy : u.busy = s.busy := by simp [u, v]
  have hop : u.op = s.op := by simp [u, v]
  refine ⟨fun w more i hb hc hi => step_of_word hw hr hb hc hi,
    fun w more er hb hc hd => step_of_bad_word hw hr hb hc hd, fun i hb ho hi => ?_, fun i hb ho hi => ?_,
    fun hb hc => step_of_no_word hw hr hb hc⟩
  · exact step_of_busy hw hr hb (fetch_of_decode_st (hbusy.trans hb) (hop.trans ho) hi)
  · exact step_of_busy hw hr hb (fetch_of_decode_latches (hbusy.trans hb) (by rwa [hop]) (by simpa [u, v] using hi))

end Sys2Proof.Machine
end

section
/-! SUPPORT. The decoder and the encoder of command and state words, and the stored table row (O1 to O5; R82, R85, R88,
R89, R96). -/

namespace Sys2Proof

open Sys2Proof.Machine

/-! ### The fields of a command word (R85) -/

theorem ofBool_cmdMute (w : BitVec 72) : BitVec.ofBool (cmdMute w) = w.extractLsb' 67 1 := by
  apply BitVec.eq_of_getLsbD_eq
  intro i hi
  obtain rfl : i = 0 := by omega
  simp [cmdMute]

/-- A command word is made of its fields. -/
theorem cmdWord_fields (w : BitVec 72) : cmdWord (cmdRsv w) (cmdMute w) (cmdOp w) (cmdLeft w) (cmdRight w) = w := by
  have join {k k' n n' : Nat} (h : k' = k + n) : w.extractLsb' k' n' ++ w.extractLsb' k n = w.extractLsb' k (n' + n) :=
    BitVec.extractLsb'_append_extractLsb'_eq_extractLsb' h
  rw [cmdWord, ofBool_cmdMute, cmdRsv, cmdOp, cmdLeft, cmdRight, join (show 68 = 67 + 1 from rfl),
    join (show 67 = 64 + 3 from rfl), join (show 64 = 32 + 32 from rfl), join (show 32 = 0 + 32 from rfl)]
  exact BitVec.extractLsb'_eq_self

/-! ### Command words (R88, R89) -/

theorem decode_cmd_of_rsv_eq {w : BitVec 72} (h : cmdRsv w = 0#4) :
    decode (.cmd w) = .ok (opInstr (cmdOp w) (cmdLeft w) (cmdRight w) (cmdMute w)) := by simp [decode, decodeCmd, h]

theorem decode_cmd_of_rsv_ne {w : BitVec 72} (h : cmdRsv w ≠ 0#4) : decode (.cmd w) = .error .reservedBits := by
  simp [decode, decodeCmd, h]

theorem decode_cmd_eq_ok_iff {w : BitVec 72} {i : Instr} : decode (.cmd w) = .ok i ↔
    cmdRsv w = 0#4 ∧ i = opInstr (cmdOp w) (cmdLeft w) (cmdRight w) (cmdMute w) := by
  by_cases h : cmdRsv w = 0#4
  · simp [decode_cmd_of_rsv_eq h, h, eq_comm]
  · simp [decode_cmd_of_rsv_ne h, h]

theorem encode_opInstr (op : BitVec 3) (l r : F32) (m : Bool) :
    encode (opInstr op l r m) = some (.cmd (cmdWord 0 m op l r)) := by
  obtain ⟨k⟩ := op
  fin_cases k <;> rfl

/-- Two commands with one encoding have one opcode. -/
theorem opcode_eq_of_opInstr_eq {op op' : BitVec 3} {l r : F32} {m : Bool} (h : opInstr op l r m = opInstr op' l r m) :
    op = op' := by
  have hword : cmdWord 0 m op l r = cmdWord 0 m op' l r := by simpa [encode_opInstr] using congrArg encode h
  simpa using congrArg cmdOp hword

/-! ### State words (R22, R96) -/

theorem eq_seven_or_code (v : BitVec 3) : v = 7#3 ∨ ∃ t : SeqState, v = t.code := by
  obtain ⟨k⟩ := v
  fin_cases k
  exacts [.inr ⟨.reset, rfl⟩, .inr ⟨.clockSourceDefault, rfl⟩, .inr ⟨.pllConfiguring, rfl⟩, .inr ⟨.pllLocked, rfl⟩,
    .inr ⟨.clockSourcePll, rfl⟩, .inr ⟨.boardConfiguring, rfl⟩, .inr ⟨.ready, rfl⟩, .inl rfl]

theorem decode_st_code (t : SeqState) : decode (.st t.code) = .ok (transitionOf t) := by cases t <;> rfl

theorem decode_st_seven : decode (.st 7#3) = .error .reservedState := rfl

theorem encode_transitionOf (t : SeqState) : encode (transitionOf t) = some (.st t.code) := by cases t <;> rfl

/-! ### The instructions that have a word -/

/-- An encoding is that of a command, with `RSV = 0`, or that of a sequencer row. -/
theorem encode_eq_some_cases : ∀ {i : Instr} {c : CodeWord}, encode i = some c →
    (∃ op l r m, i = opInstr op l r m ∧ c = .cmd (cmdWord 0 m op l r)) ∨
    ∃ t : SeqState, i = transitionOf t ∧ c = .st t.code
  | .start l r m, _, rfl => .inl ⟨0, l, r, m, rfl, rfl⟩
  | .setLineInGain l r m, _, rfl => .inl ⟨1, l, r, m, rfl, rfl⟩
  | .setAuxInGain l r m, _, rfl => .inl ⟨2, l, r, m, rfl, rfl⟩
  | .setMicInGain l r m, _, rfl => .inl ⟨3, l, r, m, rfl, rfl⟩
  | .setLineOutGain l r m, _, rfl => .inl ⟨4, l, r, m, rfl, rfl⟩
  | .setHpOutGain l r m, _, rfl => .inl ⟨5, l, r, m, rfl, rfl⟩
  | .reservedOp6 l r m, _, rfl => .inl ⟨6, l, r, m, rfl, rfl⟩
  | .reservedOp7 l r m, _, rfl => .inl ⟨7, l, r, m, rfl, rfl⟩
  | .t1, _, rfl => .inr ⟨.reset, rfl, rfl⟩
  | .t2, _, rfl => .inr ⟨.clockSourceDefault, rfl, rfl⟩
  | .t3, _, rfl => .inr ⟨.pllConfiguring, rfl, rfl⟩
  | .t4, _, rfl => .inr ⟨.pllLocked, rfl, rfl⟩
  | .t5, _, rfl => .inr ⟨.clockSourcePll, rfl, rfl⟩
  | .t6, _, rfl => .inr ⟨.boardConfiguring, rfl, rfl⟩
  | .ready, _, rfl => .inr ⟨.ready, rfl, rfl⟩

theorem decode_of_encode {i : Instr} {c : CodeWord} (h : encode i = some c) : decode c = .ok i := by
  obtain ⟨op, l, r, m, rfl, rfl⟩ | ⟨t, rfl, rfl⟩ := encode_eq_some_cases h
  · simpa using decode_cmd_of_rsv_eq (cmdRsv_cmdWord 0 m op l r)
  · exact decode_st_code t

theorem encode_of_decode {c : CodeWord} {i : Instr} (h : decode c = .ok i) : encode i = some c := by
  cases c with
  | cmd w =>
    obtain ⟨hrsv, rfl⟩ := decode_cmd_eq_ok_iff.mp h
    have hword : cmdWord 0 (cmdMute w) (cmdOp w) (cmdLeft w) (cmdRight w) = w :=
      (congrArg (cmdWord · _ _ _ _) hrsv.symm).trans (cmdWord_fields w)
    rw [encode_opInstr, hword]
  | st v =>
    obtain rfl | ⟨t, rfl⟩ := eq_seven_or_code v
    · cases h
    · obtain rfl : transitionOf t = i := Except.ok.inj ((decode_st_code t).symm.trans h)
      exact encode_transitionOf t

/-- Settles O2: an instruction with a word is a command or a sequencer row (`encode_eq_some_cases`), and each of those
decodes back. -/
theorem decodeOfEncode : Obligations.DecodeOfEncode := by
  refine ⟨fun i c h => decode_of_encode h, fun l r m i hi => ?_⟩
  fin_cases hi <;> exact ⟨_, rfl, decode_of_encode rfl⟩

/-- Settles O3: `encode_of_decode`, and the two refusals by the cases of `RSV` and of the state word. -/
theorem encodeOfDecode : Obligations.EncodeOfDecode := by
  refine ⟨fun c i h => encode_of_decode h, fun w => ?_, fun v => ?_⟩
  · change _ ↔ cmdRsv w ≠ 0#4
    by_cases h : cmdRsv w = 0#4
    · simp [decode_cmd_of_rsv_eq h, h]
    · simp [decode_cmd_of_rsv_ne h, h]
  · obtain rfl | ⟨t, rfl⟩ := eq_seven_or_code v
    · exact ⟨fun _ => rfl, fun _ => ⟨_, decode_st_seven⟩⟩
    · rw [decode_st_code]
      refine ⟨fun ⟨_, h⟩ => (nomatch h), fun h => ?_⟩
      have hseven : decode (.st 7#3) = .ok (transitionOf t) := h ▸ decode_st_code t
      cases hseven

/-! ### Selection by match and mask (R88) -/

/-- The mask of R88 leaves `RSV` and `OP` of a word. -/
theorem and_opcodeMask (w : BitVec 72) :
    w &&& 0xF70000000000000000#72 = cmdWord (cmdRsv w) false (cmdOp w) 0 0 := by
  have hmask : 0xF70000000000000000#72 = cmdWord (BitVec.allOnes 4) false (BitVec.allOnes 3) 0 0 := rfl
  conv_lhs => rw [← cmdWord_fields w, hmask]
  unfold cmdWord
  rw [BitVec.and_append, BitVec.and_append, BitVec.and_append, BitVec.and_append, BitVec.and_allOnes,
    BitVec.and_allOnes]
  simp

theorem decode_eq_opInstr_iff (w : BitVec 72) (op : BitVec 3) :
    w &&& 0xF70000000000000000#72 = cmdWord 0 false op 0 0 ↔
      decode (.cmd w) = .ok (opInstr op (cmdLeft w) (cmdRight w) (cmdMute w)) := by
  rw [and_opcodeMask, decode_cmd_eq_ok_iff]
  constructor
  · intro h
    have hrsv : cmdRsv w = 0#4 := by simpa using congrArg cmdRsv h
    have hop : cmdOp w = op := by simpa using congrArg cmdOp h
    exact ⟨hrsv, by rw [hop]⟩
  · rintro ⟨hrsv, hi⟩
    rw [hrsv, opcode_eq_of_opInstr_eq hi]
    rfl

/-- Settles O4: `decode_eq_opInstr_iff` at each of the eight opcodes. -/
theorem selectedByMatchAndMask : Obligations.SelectedByMatchAndMask := fun w =>
  ⟨decode_eq_opInstr_iff w 0, decode_eq_opInstr_iff w 1, decode_eq_opInstr_iff w 2, decode_eq_opInstr_iff w 3,
    decode_eq_opInstr_iff w 4, decode_eq_opInstr_iff w 5, decode_eq_opInstr_iff w 6, decode_eq_opInstr_iff w 7⟩

/-! ### The stored table row (R82) -/

theorem decodeRow_encodeRow (r : Row) : decodeRow (encodeRow r) = r := by
  rw [decodeRow, encodeRow, BitVec.extractLsb'_append_eq_left, BitVec.extractLsb'_append_eq_right]

theorem encodeRow_decodeRow (w : BitVec 24) : encodeRow (decodeRow w) = w := BitVec.extractLsb'_append_extractLsb'

theorem extractLsb'_extractLsb' {n : Nat} (w : BitVec n) {a b k m : Nat} (h : b + m ≤ k) :
    (w.extractLsb' a k).extractLsb' b m = w.extractLsb' (a + b) m := by
  apply BitVec.eq_of_getLsbD_eq
  intro i hi
  have hk : b + i < k := by omega
  simp [hi, hk, Nat.add_assoc]

/-- Settles O5: the round trip of the stored row, and the two address bytes of the frame cut out of the row. -/
theorem rowStoredAndFramed : Obligations.RowStoredAndFramed := by
  refine ⟨fun r => ?_, fun w => ⟨encodeRow_decodeRow w, ?_⟩⟩
  · have hrow := decodeRow_encodeRow r
    exact ⟨congrArg Row.addr hrow, congrArg Row.value hrow, hrow⟩
  · simp [encodeFrame, decodeRow, extractLsb'_extractLsb']

/-! ### Words written out (R85, R88, R96) -/

/-- Settles O1, by evaluation of the decoder. -/
theorem decodesWrittenWords : Obligations.DecodesWrittenWords :=
  ⟨rfl, rfl, rfl, rfl, rfl, rfl, rfl, rfl, rfl⟩

end Sys2Proof
end

section
/-! SUPPORT. The value of an operand word (O8; R86), the response word (O7; R92), and the commands answered with
`IllegalCommand` (O34; R89, R90, R215). -/

namespace Sys2Proof

/-! ### The binary32 operand (R86) -/

/-- The sign of an operand word. -/
def f32Sign (d : F32) : ℚ := if d.getLsbD 31 then -1 else 1

/-- The exponent field of an operand word. -/
def f32Exponent (d : F32) : ℕ := (d.extractLsb' 23 8).toNat

/-- The fraction field of an operand word. -/
def f32Fraction (d : F32) : ℕ := (d.extractLsb' 0 23).toNat

theorem f32Value_of_exponent_255 {d : F32} (he : f32Exponent d = 255) : f32Value d =
    if f32Fraction d = 0 then (if d.getLsbD 31 then .negInf else .posInf) else .nan :=
  if_pos he

theorem f32Value_of_exponent_ne {d : F32} (he : f32Exponent d ≠ 255) : f32Value d =
    .fin (f32Sign d * if f32Exponent d = 0 then mkRat (f32Fraction d) (2 ^ 149)
      else if 150 ≤ f32Exponent d then mkRat ((2 ^ 23 + f32Fraction d) * 2 ^ (f32Exponent d - 150)) 1
      else mkRat (2 ^ 23 + f32Fraction d) (2 ^ (150 - f32Exponent d))) := by
  have hsign (m : ℚ) : (if d.getLsbD 31 then -m else m) = f32Sign d * m := by
    unfold f32Sign
    split <;> ring
  exact (if_neg he).trans (congrArg ExtRat.fin (hsign _))

/-- The magnitude of a normal word, in `f32Value` an integer times a power of two, is the formula of R86. -/
theorem normal_magnitude (e f : ℕ) :
    (if 150 ≤ e then mkRat ((2 ^ 23 + f) * 2 ^ (e - 150)) 1 else mkRat (2 ^ 23 + f) (2 ^ (150 - e))) =
      (2 : ℚ) ^ ((e : ℤ) - 127) * (1 + (f : ℚ) / 2 ^ 23) := by
  have hscale : (2 : ℚ) ^ ((e : ℤ) - 127) * (1 + (f : ℚ) / 2 ^ 23) = (2 ^ 23 + f) * (2 : ℚ) ^ ((e : ℤ) - 150) := by
    rw [show (e : ℤ) - 127 = ((e : ℤ) - 150) + 23 by ring, zpow_add₀ two_ne_zero]
    field_simp
  rw [hscale]
  split
  · next h =>
    rw [show (e : ℤ) - 150 = (e - 150 : ℕ) by omega, zpow_natCast]
    norm_num [Rat.mkRat_eq_div]
  · next h =>
    rw [show (e : ℤ) - 150 = -(150 - e : ℕ) by omega, zpow_neg, zpow_natCast]
    norm_num [Rat.mkRat_eq_div, div_eq_mul_inv]

/-- The magnitude of a subnormal word is the formula of R86. -/
theorem subnormal_magnitude (f : ℕ) : mkRat f (2 ^ 149) = (2 : ℚ) ^ (-126 : ℤ) * ((f : ℚ) / 2 ^ 23) := by
  norm_num [Rat.mkRat_eq_div]
  ring

/-- Settles O8: the words of exponent 255 have no finite value, and the magnitude of the others is that of R86. -/
theorem binaryOperandValue : Obligations.BinaryOperandValue := by
  intro d sgn e f
  refine ⟨fun h1 h254 => ?_, fun h0 => ?_, fun h255 hf => ?_, fun h255 hf => ?_⟩
  · have he : f32Exponent d = e := rfl
    rw [f32Value_of_exponent_ne (by omega), if_neg (by omega), normal_magnitude, ← mul_assoc]
    rfl
  · have he : f32Exponent d = 0 := h0
    rw [f32Value_of_exponent_ne (by omega), if_pos he, subnormal_magnitude, ← mul_assoc]
    rfl
  · exact (f32Value_of_exponent_255 h255).trans (if_pos hf)
  · exact (f32Value_of_exponent_255 h255).trans (if_neg hf)

end Sys2Proof

namespace Sys2Proof.Machine

/-! ### The response word (R92) -/

section ResponseWord

variable (s : State)

theorem rspWord_errIndex : s.rspWord.extractLsb' 16 16 = s.errIndex := by
  unfold State.rspWord
  iterate 4 rw [BitVec.extractLsb'_append_eq_of_le (by decide)]
  exact BitVec.extractLsb'_append_eq_left

theorem rspWord_zeros_high : s.rspWord.extractLsb' 12 4 = 0#4 := by
  unfold State.rspWord
  iterate 4 rw [BitVec.extractLsb'_append_eq_of_le (by decide)]
  exact BitVec.extractLsb'_append_eq_right

theorem rspWord_failed : s.rspWord.getLsbD 11 = s.failed := by
  unfold State.rspWord
  iterate 3 rw [BitVec.getLsbD_append, if_neg (by decide)]
  rw [BitVec.getLsbD_append, if_pos (by decide)]
  exact BitVec.getLsbD_ofBool ..

theorem rspWord_st : s.rspWord.extractLsb' 8 3 = s.st.code := by
  unfold State.rspWord
  iterate 2 rw [BitVec.extractLsb'_append_eq_of_le (by decide)]
  exact BitVec.extractLsb'_append_eq_right

theorem rspWord_zeros_low : s.rspWord.extractLsb' 3 5 = 0#5 := by
  unfold State.rspWord
  rw [BitVec.extractLsb'_append_eq_of_le (by decide)]
  exact BitVec.extractLsb'_append_eq_right

theorem rspWord_errKind : s.rspWord.extractLsb' 0 3 = s.errKind.code := BitVec.extractLsb'_append_eq_right

end ResponseWord

/-- Settles O7: the response word is `State.rspWord` of the state with the new status, and its fields are those above. -/
theorem responseWordFields : Obligations.ResponseWordFields := by
  refine ⟨fun s k i => ?_, fun t => by cases t <;> rfl, fun k => ?_⟩
  · let u : State := { s with errKind := k, errIndex := i, busy := false }
    exact ⟨u.rspWord, rfl, rspWord_errIndex u, rspWord_zeros_high u, rspWord_failed u, rspWord_st u,
      rspWord_zeros_low u, rspWord_errKind u⟩
  · cases k with
    | ok => rfl
    | err e => cases e <;> rfl

/-! ### Commands answered with `IllegalCommand` (R89, R90, R215) -/

variable {s : State}

/-- An illegal command is latched and its operation ends at once, with `FAILED` kept. -/
theorem acceptIllegal_eq_ended (op : BitVec 3) (l r : F32) (m : Bool) (s : State) : acceptIllegal op l r m s =
    State.ended { s with op := op, mute := m, leftDb := l, rightDb := r } (.err .illegalCommand) 0 s.failed := by
  have hf : (s.failed || false) = s.failed := Bool.or_false _
  simp only [acceptIllegal, raise, State.finish, State.ended, State.latch, State.rspWord, hf]

/-- A command of an idle block whose opcode is reserved (R89), or names a channel that is not in use (R90). -/
theorem exec_illegal_opcode (op : BitVec 3) (l r : F32) (m : Bool) (hb : s.busy = false) (h0 : op ≠ 0#3)
    (h : 5 < op.toNat ∨ s.cfg.inUse (channelOf op) = false) :
    exec (opInstr op l r m) s = .next (acceptIllegal op l r m s) := by
  rw [exec_opInstr_idle s op l r m hb, if_neg h0, if_pos h]

/-- A word offered to an idle block with a bit of `RSV` set (R89). -/
theorem step_of_reserved_bits {rsv : BitVec 4} {op : BitVec 3} {l r : F32} {m : Bool} {rest : List (BitVec 72)}
    (hw : s.cfg.wellFormed = true) (hs : s.env.stimuli = []) (hb : s.busy = false) (hrsv : rsv ≠ 0)
    (hc : s.cmdIn = cmdWord rsv m op l r :: rest) :
    step s = .next (acceptIllegal op l r m { settle s with cmdIn := rest }) := by
  have hd : decode (.cmd (cmdWord rsv m op l r)) = .error .reservedBits :=
    decode_cmd_of_rsv_ne (by simpa using hrsv)
  rw [step_of_bad_word hw (rstHigh_of_no_stimuli hs) hb hc hd, intake_of_no_stimuli hs]
  simp [acceptBadWord]

/-- Settles O34: each of the four is an illegal command accepted by an idle block. -/
theorem illegalCommandsAnswered : Obligations.IllegalCommandsAnswered := by
  intro s l r m hb answer
  have hanswer (op : BitVec 3) (u : State) : answer op u = acceptIllegal op l r m u :=
    (acceptIllegal_eq_ended op l r m u).symm
  simp only [hanswer]
  exact ⟨exec_illegal_opcode 6 l r m hb (by decide) (.inl (by decide)),
    exec_illegal_opcode 7 l r m hb (by decide) (.inl (by decide)),
    fun hmic => exec_illegal_opcode 3 l r m hb (by decide) (.inr hmic),
    fun rsv op rest hrsv hw hs hc => step_of_reserved_bits hw hs hb hrsv hc⟩

end Sys2Proof.Machine
end

section
/-! SUPPORT. The transaction a step adds to the trace is framed as a write or a read of the block's device (O53;
R116). -/

namespace Sys2Proof.Machine

variable {s u t : State}

/-- Every transaction of an operation in progress goes to the device address, a write with a payload (R111 to R113). -/
theorem BusyEffect.entry_wellFramed (h : BusyEffect u t) {x : TraceEntry} (hx : t.trace = u.trace ++ [x]) :
    wellFramed u.cfg x = true := by
  have same {y : TraceEntry} (hy : t.trace = u.trace ++ [y]) : x = y := by simpa [hx] using hy
  have framed (a : Addr) {p : List Byte} (ok : Bool) (hp : p ≠ []) :
      wellFramed u.cfg (.write u.cfg.devAddr (encodeFrame a p) ok) = true := by
    have hlen : 3 ≤ (encodeFrame a p).length := Nat.add_le_add_right (List.length_pos_of_ne_nil hp) 2
    simp only [wellFramed, hlen, beq_self_eq_true, decide_true, Bool.and_self]
  cases h with
  | quiet trace | ended trace => simp [hx] at trace
  | wrote _ a p _ _ payload _ trace | writeFailed _ a p _ _ payload _ trace =>
    cases same trace
    exact framed a _ payload
  | read _ _ _ _ _ trace | readFailed _ _ _ _ trace =>
    cases same trace
    simp [wellFramed]

/-- What landing adds to the trace is the transaction of the operation in progress (R14). -/
theorem trace_of_land {v : State} (hb : v.busy = true) (heff : BusyEffect (settle v) t) {x : TraceEntry}
    (hx : (land v (settle v) t).trace = v.trace ++ [x]) : t.trace = (settle v).trace ++ [x] := by
  rcases land_cases v (by simpa using hb) heff with ⟨-, hl⟩ | ⟨-, -, -, hl⟩ | ⟨-, -, -, hl⟩ | ⟨-, -, hl⟩ <;>
    rw [hl] at hx
  case inr.inl => simp at hx
  all_goals simpa using hx

/-- Settles O53: the entry a step adds is that of a transaction of the operation in progress (`step_oneTransaction`,
`step_effect_of_transaction`). -/
theorem traceWellFramed : Obligations.TraceWellFramed := by
  intro s t hs h
  obtain ⟨hcfg, htrace, -, -⟩ := step_oneTransaction h
  rcases htrace with htrace | ⟨-, -, x, -, -, htrace⟩
  · rw [hcfg, htrace]
    exact hs
  · obtain ⟨hb, t0, heff, hl⟩ := step_effect_of_transaction h htrace
    have hx : wellFramed s.cfg x = true := by
      have ht0 := trace_of_land (by simpa using hb) heff (x := x) (by simpa [hl] using htrace)
      simpa using heff.entry_wellFramed ht0
    rw [hcfg, htrace, List.forall_mem_append]
    exact ⟨hs, by simpa using hx⟩

end Sys2Proof.Machine
end

section
/-! SUPPORT. The internal operations of the Command Encoder as instructions: ENCODE, SEND, READ_REG and one row of
SEND_TABLE (O6, O21, O22, O23; R110 to R113), and the operands they and the quantizer refuse (O29; log 20). -/

namespace Sys2Proof.Machine

variable {s t : State} {a : Addr} {p : List Byte} {e : Env} {ok : Bool}

/-! ### Operands outside an operation's domain -/

theorem withChannel_of_not_inUse {c : Channel} (h : s.cfg.inUse c = false) (next : State) :
    withChannel c s next = .refused .channelNotInUse := by simp [withChannel, h]

theorem enter_idx_eq_pos (s : State) : (enter s).idx = s.pos := enter_idx s

theorem execT2_of_empty_payload {cmds : List RegisterCommand} {b : Addr} (hc : s.cfg.pllCommands = .ok cmds)
    (hk : cmds[s.pos.toNat]? = some ⟨b, []⟩) : execT2 s = .refused .emptyPayload := by
  simp only [execT2, hc, enter_idx_eq_pos, hk]
  rfl

/-- Settles O29: the empty payload by the three operations that frame one, and `MIC_IN` by `withChannel`. -/
theorem operandsOutsideDomainRefused : Obligations.OperandsOutsideDomainRefused := by
  intro s a
  refine ⟨rfl, rfl, fun cmds b hc hk => execT2_of_empty_payload hc hk, fun hmic d l r sd t k k' m => ?_⟩
  have hu : s.cfg.inUse .micIn = false := hmic
  simp only [List.forall_mem_cons, List.not_mem_nil, false_implies, implies_true, and_true]
  refine ⟨?_, ?_, ?_, ?_, ?_, ?_, ?_⟩ <;> exact withChannel_of_not_inUse hu _

/-! ### ENCODE (R110) -/

/-- Settles O6: a payload that is not empty is framed. -/
theorem encodeMakesFrame : Obligations.EncodeMakesFrame := by
  intro s a p hp
  simp [exec, execEncode, hp, encodeFrame]

/-! ### What a transaction leaves of the codec -/

theorem wrote_encodeFrame (pll : Bool) (a : Addr) (p : List Byte) (ok : Bool) (e : Env) (s : State) :
    wrote pll (encodeFrame a p) ok e s =
      { s with env := e.noteWrite s.cfg pll a p, trace := s.trace ++ [.write s.cfg.devAddr (encodeFrame a p) ok] } := by
  simp [wrote]

theorem sameOutside_of_env_eq (h : t.env = s.env) (a : Addr) (n : Nat) : SameOutside a n s t := fun x _ => by rw [h]

/-- An answered write touches the registers of its payload only (log 7, log 8, log 33). -/
theorem sameOutside_of_answerWrite (h : s.answerWrite (encodeFrame a p) = some (ok, e))
    (ht : t.env = e.noteWrite s.cfg false a p) : SameOutside a p.length s t := by
  intro x hx
  obtain ⟨-, -, hframe⟩ := Env.answerWrite_spec _ _ _ _ _ h
  rw [ht, Env.noteWrite_peek]
  exact hframe x (by simpa using hx)

/-- No codec register changes by a read (R58). -/
theorem sameCodec_of_answerRead {got : Option Byte} (h : s.answerRead a = some (got, e))
    (ht : t.env = e.noteRead s.cfg a got) : SameCodec s t := by
  intro x
  obtain ⟨hmarks, hregs⟩ := Env.answerRead_spec _ _ _ _ _ _ h
  rw [ht, Env.noteRead_peek, Env.peek_congr hregs hmarks.isMock]

/-! ### SEND (R111) -/

/-- What SEND returns, by what its write came to (log 14). -/
def WriteAns.result : WriteAns → OpResult
  | .wait => .pending
  | .ok => .ok
  | .fail => .fail

theorem exec_send (hp : p ≠ []) :
    exec (.send a p) s = .next { (send false a p s).1 with res := (send false a p s).2.result } := by
  simp only [exec, execSend, List.isEmpty_iff, hp, if_false]
  split <;> rename_i h <;> simp only [h, WriteAns.result]

theorem exec_send_wait (hp : p ≠ []) (h : s.answerWrite (encodeFrame a p) = none) :
    exec (.send a p) s = .next { s with res := .pending } := by
  rw [exec_send hp, send_wait false a p h]
  rfl

theorem exec_send_ok (hp : p ≠ []) (h : s.answerWrite (encodeFrame a p) = some (true, e)) :
    exec (.send a p) s = .next { s with
      res := .ok, idx := s.idx + 1, env := e.noteWrite s.cfg false a p,
      trace := s.trace ++ [.write s.cfg.devAddr (encodeFrame a p) true] } := by
  rw [exec_send hp, send_ok false a p h, wrote_encodeFrame]
  rfl

theorem exec_send_fail (hp : p ≠ []) (h : s.answerWrite (encodeFrame a p) = some (false, e)) :
    exec (.send a p) s = .next { s with
      res := .fail, env := e.noteWrite s.cfg false a p,
      trace := s.trace ++ [.write s.cfg.devAddr (encodeFrame a p) false] } := by
  rw [exec_send hp, send_fail false a p h, wrote_encodeFrame]
  rfl

theorem exec_send_sameOutside (hp : p ≠ []) (hx : exec (.send a p) s = .next t) : SameOutside a p.length s t := by
  rw [exec_send hp] at hx
  cases hx
  rcases send_cases false a p s with ⟨-, h⟩ | ⟨e, ha, h⟩ | ⟨e, ha, h⟩ <;> rw [h]
  · exact sameOutside_of_env_eq rfl a _
  · exact sameOutside_of_answerWrite ha (by simp)
  · exact sameOutside_of_answerWrite ha (by simp)

/-- Settles O21: the three answers, and the registers they leave. -/
theorem sendIsOneWrite : Obligations.SendIsOneWrite :=
  fun _ _ _ hp => ⟨fun _ => exec_send_ok hp, fun _ => exec_send_fail hp, exec_send_wait hp,
    fun _ => exec_send_sameOutside hp⟩

/-! ### READ_REG (R113) -/

/-- What READ_REG returns, by what its read came to (log 14). -/
def ReadAns.result : ReadAns → OpResult
  | .wait => .pending
  | .ok b => .okByte b
  | .fail => .fail

theorem exec_readReg : exec (.readReg a) s = .next { (readReg a s).1 with res := (readReg a s).2.result } := by
  simp only [exec, execReadReg]
  split <;> rename_i h <;> simp only [h, ReadAns.result]

theorem exec_readReg_sameCodec (hx : exec (.readReg a) s = .next t) : SameCodec s t := by
  rw [exec_readReg] at hx
  cases hx
  rcases readReg_cases a s with ⟨-, h⟩ | ⟨e, ha, h⟩ | ⟨b, e, ha, h⟩ <;> rw [h]
  · exact fun _ => rfl
  · exact sameCodec_of_answerRead ha (by simp)
  · exact sameCodec_of_answerRead ha (by simp)

/-- Settles O22: the three answers of the read, and that it changes no codec register. -/
theorem readRegIsOneRead : Obligations.ReadRegIsOneRead := by
  intro s a
  refine ⟨fun b e h => ?_, fun e h => ?_, fun h => ?_, fun t => exec_readReg_sameCodec⟩
  · rw [exec_readReg, readReg_ok a b h]
    rfl
  · rw [exec_readReg, readReg_fail a h]
    rfl
  · rw [exec_readReg, readReg_wait a h]
    rfl

/-! ### One row of SEND_TABLE (R112) -/

variable {rows : List Row} {row : Row} {k : Nat}

theorem callAt_of_no_call (h : s.call = none) (i : Instr) : s.callAt i = 0 := by simp [State.callAt, h]

theorem callAt_of_call {i : Instr} {n : Nat} (h : s.call = some (i, n)) : s.callAt i = n := by simp [State.callAt, h]

theorem exec_sendTable (hk : s.callAt (.sendTable rows) = k) : exec (.sendTable rows) s =
    .next (report (.sendTable rows) k (.failAt k) (sendRow k rows s)) := by
  subst hk
  rfl

theorem exec_sendTable_end (hk : s.callAt (.sendTable rows) = k) (h : rows.length ≤ k) :
    exec (.sendTable rows) s = .next { s with res := .ok, call := none } := by
  rw [exec_sendTable hk, sendRow_end k rows h]
  rfl

theorem exec_sendTable_wait (hk : s.callAt (.sendTable rows) = k) (hr : rows[k]? = some row)
    (h : s.answerWrite (encodeFrame row.addr [row.value]) = none) :
    exec (.sendTable rows) s = .next { s with res := .pending } := by
  rw [exec_sendTable hk, sendRow_wait k rows row hr h]
  rfl

theorem exec_sendTable_fail (hk : s.callAt (.sendTable rows) = k) (hr : rows[k]? = some row)
    (h : s.answerWrite (encodeFrame row.addr [row.value]) = some (false, e)) :
    exec (.sendTable rows) s = .next { s with
      res := .failAt k, call := none, env := e.noteWrite s.cfg false row.addr [row.value],
      trace := s.trace ++ [.write s.cfg.devAddr (encodeFrame row.addr [row.value]) false] } := by
  rw [exec_sendTable hk, sendRow_fail k rows row hr h, wrote_encodeFrame]
  rfl

theorem exec_sendTable_ok (hk : s.callAt (.sendTable rows) = k) (hr : rows[k]? = some row)
    (h : s.answerWrite (encodeFrame row.addr [row.value]) = some (true, e)) :
    exec (.sendTable rows) s = .next { s with
      res := if rows.length ≤ k + 1 then .ok else .pending,
      call := if rows.length ≤ k + 1 then none else some (.sendTable rows, k + 1), idx := s.idx + 1,
      env := e.noteWrite s.cfg false row.addr [row.value],
      trace := s.trace ++ [.write s.cfg.devAddr (encodeFrame row.addr [row.value]) true] } := by
  rw [exec_sendTable hk, sendRow_ok k rows row hr h, wrote_encodeFrame]
  by_cases hl : rows.length ≤ k + 1 <;> simp only [hl, if_true, if_false, report]

theorem exec_sendTable_sameOutside (hk : s.callAt (.sendTable rows) = k) (hr : rows[k]? = some row)
    (hx : exec (.sendTable rows) s = .next t) : SameOutside row.addr 1 s t := by
  cases h : s.answerWrite (encodeFrame row.addr [row.value]) with
  | none =>
    rw [exec_sendTable_wait hk hr h] at hx
    cases hx
    exact sameOutside_of_env_eq rfl _ _
  | some r =>
    obtain ⟨ok, e⟩ := r
    cases ok with
    | false =>
      rw [exec_sendTable_fail hk hr h] at hx
      cases hx
      exact sameOutside_of_answerWrite h rfl
    | true =>
      rw [exec_sendTable_ok hk hr h] at hx
      cases hx
      exact sameOutside_of_answerWrite h rfl

/-- Settles O23: the row of the position `call` holds, by the answer to its write. -/
theorem sendTableSendsRow : Obligations.SendTableSendsRow := by
  intro s rows i k
  exact ⟨fun h => callAt_of_no_call h i, fun _ h => callAt_of_call h, exec_sendTable_end rfl,
    fun row hr => ⟨fun _ => exec_sendTable_ok rfl hr, fun _ => exec_sendTable_fail rfl hr, exec_sendTable_wait rfl hr,
      fun _ => exec_sendTable_sameOutside rfl hr⟩⟩

end Sys2Proof.Machine
end

section
/-! SUPPORT. A whole SEND_TABLE on a script of answers (O24; R112, R115). -/

namespace Sys2Proof.Machine

variable {s t u : State} {rows : List Row} {n : Nat} {ans : BusAnswer} {l : List BusAnswer}

/-- One more execution after `n` of them. -/
theorem again_succ_of_next (i : Instr) (n : Nat) : ∀ {s : State}, again i n s = .next t →
    again i (n + 1) s = exec i t := by
  induction n with
  | zero =>
    intro s h
    cases h
    cases hx : exec i t <;> simp only [again, hx]
  | succ n ih =>
    intro s h
    rw [again] at h ⊢
    cases hx : exec i s with
    | next v =>
      rw [hx] at h
      exact ih h
    | fault _ | refused _ => simp [hx] at h

/-- SEND_TABLE, begun in `s`, has sent its first `n` rows in `t`, and has returned if they are all of them. -/
structure TableSent (rows : List Row) (s : State) (n : Nat) (t : State) : Prop where
  cfg : t.cfg = s.cfg
  idx : t.idx = s.idx + BitVec.ofNat 16 n
  trace : t.trace = s.trace ++ tableEntries s.cfg (rows.take n)
  position : n < rows.length → t.callAt (.sendTable rows) = n
  returned : 0 < n → rows.length ≤ n → t.res = .ok ∧ t.call = none

theorem tableSent_zero (h : s.callAt (.sendTable rows) = 0) : TableSent rows s 0 s :=
  ⟨rfl, by simp, by simp [tableEntries], fun _ => h, fun h => absurd h (by decide)⟩

theorem tableEntries_take_succ (cfg : Config) (hn : n < rows.length) :
    tableEntries cfg (rows.take (n + 1)) = tableEntries cfg (rows.take n) ++
      [.write cfg.devAddr (encodeFrame rows[n].addr [rows[n].value]) true] := by
  rw [← List.take_append_getElem hn, tableEntries, List.map_append]
  rfl

/-- The next row, answered `Ok`. -/
theorem TableSent.next_row (h : TableSent rows s n t) (hn : n < rows.length)
    (ht : t.env.transport = .script (ans :: l)) (hans : ans ≠ .fail) :
    ∃ u, exec (.sendTable rows) t = .next u ∧ TableSent rows s (n + 1) u ∧ u.env.transport = .script l := by
  obtain ⟨e, hanswer, htransport, -⟩ :=
    Env.answerWrite_script_spec ht t.trace.length rows[n].addr [rows[n].value] rows[n].value
  rw [decide_eq_true hans] at hanswer
  refine ⟨_, exec_sendTable_ok (h.position hn) (List.getElem?_eq_getElem hn) hanswer,
    ⟨h.cfg, ?_, ?_, fun hlt => ?_, fun _ hle => ?_⟩, ?_⟩
  · simp [h.idx, BitVec.ofNat_add, BitVec.add_assoc]
  · simp [h.trace, h.cfg, tableEntries_take_succ s.cfg hn]
  · exact callAt_of_call (by simp [Nat.not_le.mpr hlt])
  · simp [hle]
  · simpa using htransport

/-- The next row, answered `Fail`: the table ends with the index of the row. -/
theorem TableSent.failed_row (h : TableSent rows s n t) (hn : n < rows.length)
    (ht : t.env.transport = .script (.fail :: l)) :
    ∃ u, exec (.sendTable rows) t = .next u ∧ u.res = .failAt n ∧ u.call = none ∧
      u.idx = s.idx + BitVec.ofNat 16 n ∧ u.trace = s.trace ++ tableEntries s.cfg (rows.take n) ++
        [.write s.cfg.devAddr (encodeFrame rows[n].addr [rows[n].value]) false] := by
  obtain ⟨e, hanswer, -⟩ :=
    Env.answerWrite_script_spec ht t.trace.length rows[n].addr [rows[n].value] rows[n].value
  exact ⟨_, exec_sendTable_fail (h.position hn) (List.getElem?_eq_getElem hn) hanswer, rfl, rfl, h.idx,
    by simp [h.trace, h.cfg]⟩

/-- As many rows are sent as answers `Ok` come, by induction on these, the last one apart. -/
theorem again_sendTable_oks (hs : s.callAt (.sendTable rows) = 0) (oks : List BusAnswer) :
    ∀ rest, (∀ x ∈ oks, x ≠ .fail) → oks.length ≤ rows.length → s.env.transport = .script (oks ++ rest) →
      ∃ t, again (.sendTable rows) oks.length s = .next t ∧ TableSent rows s oks.length t ∧
        t.env.transport = .script rest := by
  induction oks using List.reverseRecOn with
  | nil => exact fun rest _ _ ht => ⟨s, rfl, tableSent_zero hs, ht⟩
  | append_singleton oks x ih =>
    intro rest hoks hlen ht
    rw [List.forall_mem_append, List.forall_mem_singleton] at hoks
    rw [List.length_append, List.length_singleton] at hlen ⊢
    obtain ⟨t, hrun, hsent, htt⟩ := ih (x :: rest) hoks.1 (by omega) (by simpa using ht)
    obtain ⟨u, hx, hu, htu⟩ := hsent.next_row hlen htt hoks.2
    exact ⟨u, (again_succ_of_next _ _ hrun).trans hx, hu, htu⟩

/-- A table without rows returns `Ok` at once. -/
theorem again_sendTable_nil (s : State) (hs : s.callAt (.sendTable []) = 0) :
    again (.sendTable []) 1 s = .next { s with res := .ok, call := none } :=
  (again_succ_of_next _ 0 rfl).trans (exec_sendTable_end hs (Nat.le_refl 0))

/-- Settles O24: the answers `Ok` send their rows (`again_sendTable_oks`), and what follows the last of them is the end
of the table or the failed row. -/
theorem tableAbortsAtFirstFailure : Obligations.TableAbortsAtFirstFailure := by
  intro s rows oks rest hs hoks
  refine ⟨fun hlen ht => ?_, fun k hk hlen ht => ?_⟩
  · cases rows with
    | nil => exact ⟨_, again_sendTable_nil s hs, rfl, rfl, by simp, by simp [tableEntries]⟩
    | cons row rows =>
      obtain ⟨t, hrun, hsent, -⟩ := again_sendTable_oks hs oks rest hoks hlen.le ht
      rw [hlen] at hrun hsent
      obtain ⟨hres, hcall⟩ := hsent.returned (by simp) (Nat.le_refl _)
      exact ⟨t, hrun, hres, hcall, hsent.idx, by simpa using hsent.trace⟩
  · subst hlen
    obtain ⟨t, hrun, hsent, htt⟩ := again_sendTable_oks hs oks _ hoks hk.le ht
    obtain ⟨u, hx, hres, hcall, hidx, htrace⟩ := hsent.failed_row hk htt
    exact ⟨u, (again_succ_of_next _ _ hrun).trans hx, hres, hcall, hidx, htrace⟩

end Sys2Proof.Machine
end

section
/-! SUPPORT. The arithmetic of the quantizer as instructions and as facts: RTN (O10; R133), CLAMP (O9; R132), QCODE
(O11, O12; R134, R136), the operand words R137 names (O13), and QUANTIZE (O14; R135). -/

namespace Sys2Proof

open Sys2Proof.Machine

/-! ### RTN (R133) -/

/-- Nearest integer with a tie downwards, as `roundTiesToZero` rounds a magnitude, is a ceiling. -/
theorem ceil_sub_half (a : ℚ) : ⌈a - 1 / 2⌉ = if 1 / 2 < a - ⌊a⌋ then ⌊a⌋ + 1 else ⌊a⌋ := by
  have hle := Int.floor_le a
  have hlt := Int.lt_floor_add_one a
  split <;> rw [Int.ceil_eq_iff] <;> push_cast <;> constructor <;> linarith

theorem roundTiesToZero_eq (q : ℚ) :
    roundTiesToZero q = if q < 0 then -⌈|q| - 1 / 2⌉ else ⌈|q| - 1 / 2⌉ := by
  have habs : (if q < 0 then -q else q) = |q| := by
    split
    · next h => exact (abs_of_neg h).symm
    · next h => exact (abs_of_nonneg (not_lt.mp h)).symm
  have hhalf : mkRat 1 2 = 1 / 2 := by norm_num [Rat.mkRat_eq_div]
  rw [ceil_sub_half]
  simp only [roundTiesToZero, habs, hhalf]
  rfl

theorem roundTiesToZero_of_nonneg {q : ℚ} (h : 0 ≤ q) : roundTiesToZero q = ⌈q - 1 / 2⌉ := by
  rw [roundTiesToZero_eq, if_neg (not_lt.mpr h), abs_of_nonneg h]

theorem abs_roundTiesToZero (q : ℚ) : |roundTiesToZero q| = ⌈|q| - 1 / 2⌉ := by
  have hnonneg : 0 ≤ ⌈|q| - 1 / 2⌉ := Int.ceil_nonneg_of_neg_one_lt (by linarith [abs_nonneg q])
  rw [roundTiesToZero_eq]
  split
  · rw [abs_neg, abs_of_nonneg hnonneg]
  · rw [abs_of_nonneg hnonneg]

theorem roundTiesToZero_nonneg {q : ℚ} (h : 0 ≤ q) : 0 ≤ roundTiesToZero q := by
  rw [roundTiesToZero_of_nonneg h]
  exact Int.ceil_nonneg_of_neg_one_lt (by linarith)

theorem roundTiesToZero_zero : roundTiesToZero 0 = 0 := by
  rw [roundTiesToZero_of_nonneg le_rfl, Int.ceil_eq_iff]
  norm_num

theorem roundTiesToZero_neg (q : ℚ) : roundTiesToZero (-q) = -roundTiesToZero q := by
  rcases lt_trichotomy q 0 with h | rfl | h
  · rw [roundTiesToZero_eq, roundTiesToZero_eq q, if_pos h, if_neg (by linarith), abs_neg, neg_neg]
  · rw [neg_zero, roundTiesToZero_zero, neg_zero]
  · rw [roundTiesToZero_eq, roundTiesToZero_eq q, if_pos (by linarith), if_neg (by linarith), abs_neg]

theorem roundTiesToZero_mono {q q' : ℚ} (h : q ≤ q') : roundTiesToZero q ≤ roundTiesToZero q' := by
  have hpos {x y : ℚ} (hx : 0 ≤ x) (hxy : x ≤ y) : roundTiesToZero x ≤ roundTiesToZero y := by
    rw [roundTiesToZero_of_nonneg hx, roundTiesToZero_of_nonneg (hx.trans hxy)]
    exact Int.ceil_mono (by linarith)
  rcases le_total 0 q with hq | hq
  · exact hpos hq h
  · have hneg := roundTiesToZero_neg q
    rcases le_total 0 q' with hq' | hq'
    · have := roundTiesToZero_nonneg hq'
      have := roundTiesToZero_nonneg (neg_nonneg.mpr hq)
      omega
    · have := hpos (neg_nonneg.mpr hq') (neg_le_neg h)
      have := roundTiesToZero_neg q'
      omega

theorem abs_roundTiesToZero_sub_le (q : ℚ) : |(roundTiesToZero q : ℚ) - q| ≤ 1 / 2 := by
  have hpos {x : ℚ} (hx : 0 ≤ x) : |(roundTiesToZero x : ℚ) - x| ≤ 1 / 2 := by
    rw [roundTiesToZero_of_nonneg hx, abs_le]
    have hle := Int.le_ceil (x - 1 / 2)
    have hlt := Int.ceil_lt_add_one (x - 1 / 2)
    constructor <;> linarith
  rcases le_total 0 q with hq | hq
  · exact hpos hq
  · have hneg := hpos (neg_nonneg.mpr hq)
    rwa [roundTiesToZero_neg, Int.cast_neg, ← neg_sub', abs_neg] at hneg

theorem roundTiesToZero_intCast (k : ℤ) : roundTiesToZero k = k := by
  have hpos {n : ℤ} (hn : 0 ≤ n) : roundTiesToZero n = n := by
    rw [roundTiesToZero_of_nonneg (by exact_mod_cast hn), Int.ceil_eq_iff]
    constructor <;> linarith
  rcases le_total 0 k with hk | hk
  · exact hpos hk
  · have hneg := hpos (neg_nonneg.mpr hk)
    rw [Int.cast_neg, roundTiesToZero_neg] at hneg
    omega

/-- A tie goes to the integer nearer zero. -/
theorem roundTiesToZero_add_half (k : ℕ) : roundTiesToZero (k + 1 / 2) = k := by
  rw [roundTiesToZero_of_nonneg (by positivity), add_sub_cancel_right, Int.ceil_natCast]

theorem roundTiesToZero_neg_sub_half (k : ℕ) : roundTiesToZero (-k - 1 / 2) = -k := by
  rw [← neg_add', roundTiesToZero_neg, roundTiesToZero_add_half]

/-- Settles O10: a magnitude is rounded to `⌈|q| - 1/2⌉`, and the sign is put back. -/
theorem roundsTiesTowardZero : Obligations.RoundsTiesTowardZero := by
  refine ⟨fun s q => rfl, roundTiesToZero_eq, fun q => ⟨fun h => ?_, fun h => ?_⟩, roundTiesToZero_neg,
    fun q q' => roundTiesToZero_mono⟩
  · rw [abs_roundTiesToZero, ceil_sub_half, if_pos h]
  · rw [abs_roundTiesToZero, ceil_sub_half, if_neg (not_lt.mpr h)]

/-! ### CLAMP (R132) -/

section Clamp

variable {p : ChannelParams} {q : ℚ} {d d' : ExtRat}

theorem ChannelParams.clampDb_fin_of_lt (h : q < p.minDb) : p.clampDb (.fin q) = p.minDb := if_pos h

theorem ChannelParams.clampDb_fin_of_mem (hlo : p.minDb ≤ q) (hhi : q ≤ p.maxDb) : p.clampDb (.fin q) = q := by
  simp [ChannelParams.clampDb, not_lt.mpr hlo, not_lt.mpr hhi]

theorem ChannelParams.clampDb_fin_of_gt (hr : p.minDb ≤ p.maxDb) (h : p.maxDb < q) :
    p.clampDb (.fin q) = p.maxDb := by
  simp [ChannelParams.clampDb, h, not_lt.mpr (hr.trans h.le)]

theorem ChannelParams.clampDb_fin_minDb (hr : p.minDb ≤ p.maxDb) : p.clampDb (.fin p.minDb) = p.minDb :=
  clampDb_fin_of_mem le_rfl hr

theorem ChannelParams.clampDb_fin_maxDb (hr : p.minDb ≤ p.maxDb) : p.clampDb (.fin p.maxDb) = p.maxDb :=
  clampDb_fin_of_mem hr le_rfl

/-- CLAMP of a rational is the rational, moved into the range. -/
theorem ChannelParams.clampDb_fin (hr : p.minDb ≤ p.maxDb) (q : ℚ) :
    p.clampDb (.fin q) = max p.minDb (min q p.maxDb) := by
  rcases lt_or_ge q p.minDb with hlo | hlo
  · rw [clampDb_fin_of_lt hlo, max_eq_left ((min_le_left _ _).trans hlo.le)]
  · rcases le_or_gt q p.maxDb with hhi | hhi
    · rw [clampDb_fin_of_mem hlo hhi, min_eq_left hhi, max_eq_right hlo]
    · rw [clampDb_fin_of_gt hr hhi, min_eq_right hhi.le, max_eq_right hr]

theorem ChannelParams.clampDb_mem (hr : p.minDb ≤ p.maxDb) (d : ExtRat) :
    p.minDb ≤ p.clampDb d ∧ p.clampDb d ≤ p.maxDb := by
  cases d with
  | nan | negInf => exact ⟨le_rfl, hr⟩
  | posInf => exact ⟨hr, le_rfl⟩
  | fin q =>
    rw [clampDb_fin hr]
    exact ⟨le_max_left _ _, max_le hr (min_le_right _ _)⟩

theorem ChannelParams.clampDb_mono (hr : p.minDb ≤ p.maxDb) (h : extLe d d') : p.clampDb d ≤ p.clampDb d' := by
  cases d with
  | nan => exact h.elim
  | negInf => exact (clampDb_mem hr d').1
  | posInf =>
    cases d' with
    | posInf => exact le_rfl
    | nan | negInf | fin q' => exact h.elim
  | fin q =>
    cases d' with
    | nan | negInf => exact h.elim
    | posInf => exact (clampDb_mem hr (.fin q)).2
    | fin q' =>
      rw [clampDb_fin hr, clampDb_fin hr]
      exact max_le_max le_rfl (min_le_min h le_rfl)

theorem ChannelParams.clampDb_of_lt_minDb (h : extLt d (.fin p.minDb)) : p.clampDb d = p.minDb := by
  cases d with
  | nan | posInf => exact h.1.elim
  | negInf => rfl
  | fin q => exact clampDb_fin_of_lt (not_le.mp h.2)

theorem ChannelParams.clampDb_of_gt_maxDb (hr : p.minDb ≤ p.maxDb) (h : extLt (.fin p.maxDb) d) :
    p.clampDb d = p.maxDb := by
  cases d with
  | nan | negInf => exact h.1.elim
  | posInf => rfl
  | fin q => exact clampDb_fin_of_gt hr (not_le.mp h.2)

end Clamp

/-! ### QCODE (R134, R136) -/

section Code

variable {p : ChannelParams} {q : ℚ} {d d' : ExtRat}

theorem ChannelParams.dbOf_eq (p : ChannelParams) (k : ℤ) : p.dbOf k = ((k : ℚ) - p.zeroCode) * p.step := by
  simp [ChannelParams.dbOf]

theorem ChannelParams.dbOf_add_one (p : ChannelParams) (k : ℤ) : p.dbOf (k + 1) = p.dbOf k + p.step := by
  rw [dbOf_eq, dbOf_eq]
  push_cast
  ring

/-- The code of a rational in the range, by how many steps it is away from 0 dB. -/
theorem ChannelParams.code_fin_of_mem (hlo : p.minDb ≤ q) (hhi : q ≤ p.maxDb) :
    p.code (.fin q) = p.zeroCode + roundTiesToZero (q / p.step) := by
  rw [ChannelParams.code, clampDb_fin_of_mem hlo hhi]

theorem ChannelParams.code_fin_zero (hlo : p.minDb ≤ 0) (hhi : 0 ≤ p.maxDb) : p.code (.fin 0) = p.zeroCode := by
  rw [code_fin_of_mem hlo hhi, zero_div, roundTiesToZero_zero, add_zero]

theorem ChannelParams.code_fin_dbOf {k : ℤ} (hs : 0 < p.step) (hlo : p.minDb ≤ p.dbOf k) (hhi : p.dbOf k ≤ p.maxDb) :
    p.code (.fin (p.dbOf k)) = k := by
  rw [code_fin_of_mem hlo hhi, ChannelParams.dbOf, mul_div_cancel_right₀ _ hs.ne', roundTiesToZero_intCast]
  omega

/-- A tie above `ZERO_CODE` goes to the lower code. -/
theorem ChannelParams.code_fin_tie_above {k : ℕ} (hs : 0 < p.step)
    (hlo : p.minDb ≤ p.dbOf (p.zeroCode + k) + p.step / 2) (hhi : p.dbOf (p.zeroCode + k) + p.step / 2 ≤ p.maxDb) :
    p.code (.fin (p.dbOf (p.zeroCode + k) + p.step / 2)) = p.zeroCode + k := by
  have hsteps : (p.dbOf (p.zeroCode + k) + p.step / 2) / p.step = k + 1 / 2 := by
    rw [dbOf_eq]
    push_cast
    field_simp
    ring
  rw [code_fin_of_mem hlo hhi, hsteps, roundTiesToZero_add_half]

/-- A tie below `ZERO_CODE` goes to the higher code. -/
theorem ChannelParams.code_fin_tie_below {k : ℕ} (hs : 0 < p.step)
    (hlo : p.minDb ≤ p.dbOf (p.zeroCode - k) - p.step / 2) (hhi : p.dbOf (p.zeroCode - k) - p.step / 2 ≤ p.maxDb) :
    p.code (.fin (p.dbOf (p.zeroCode - k) - p.step / 2)) = p.zeroCode - k := by
  have hsteps : (p.dbOf (p.zeroCode - k) - p.step / 2) / p.step = -k - 1 / 2 := by
    rw [dbOf_eq]
    push_cast
    field_simp
    ring
  rw [code_fin_of_mem hlo hhi, hsteps, roundTiesToZero_neg_sub_half, ← sub_eq_add_neg]

theorem ChannelParams.code_congr (h : p.clampDb d = p.clampDb d') : p.code d = p.code d' := by
  rw [ChannelParams.code, h, ChannelParams.code]

theorem ChannelParams.code_le_of_clampDb_le (hs : 0 < p.step) (h : p.clampDb d ≤ p.clampDb d') :
    p.code d ≤ p.code d' :=
  Int.add_le_add_left (roundTiesToZero_mono (div_le_div_of_nonneg_right h hs.le)) _

theorem ChannelParams.code_of_clampDb_eq_minDb (hr : p.minDb ≤ p.maxDb) (h : p.clampDb d = p.minDb) :
    p.code d = p.minCode :=
  code_congr (h.trans (clampDb_fin_minDb hr).symm)

theorem ChannelParams.code_of_clampDb_eq_maxDb (hr : p.minDb ≤ p.maxDb) (h : p.clampDb d = p.maxDb) :
    p.code d = p.maxCode :=
  code_congr (h.trans (clampDb_fin_maxDb hr).symm)

theorem ChannelParams.code_mem (hr : p.minDb ≤ p.maxDb) (hs : 0 < p.step) (d : ExtRat) :
    p.minCode ≤ p.code d ∧ p.code d ≤ p.maxCode := by
  obtain ⟨hlo, hhi⟩ := clampDb_mem hr d
  exact ⟨code_le_of_clampDb_le hs ((clampDb_fin_minDb hr).trans_le hlo),
    code_le_of_clampDb_le hs (hhi.trans_eq (clampDb_fin_maxDb hr).symm)⟩

/-- The gain that the code of a rational in the range stands for is within half a step of it. -/
theorem ChannelParams.abs_dbOf_code_sub_le (hs : 0 < p.step) (hlo : p.minDb ≤ q) (hhi : q ≤ p.maxDb) :
    |p.dbOf (p.code (.fin q)) - q| ≤ p.step / 2 := by
  have hdist : p.dbOf (p.code (.fin q)) - q = ((roundTiesToZero (q / p.step) : ℚ) - q / p.step) * p.step := by
    rw [dbOf_eq, code_fin_of_mem hlo hhi]
    push_cast
    field_simp
    ring
  rw [hdist, abs_mul, abs_of_pos hs]
  have := mul_le_mul_of_nonneg_right (abs_roundTiesToZero_sub_le (q / p.step)) hs.le
  linarith

end Code

/-! ### The codes of a channel in use of a well-formed configuration (R11, R135) -/

section InUse

variable {cfg : Config} {c : Channel}

theorem Config.range_le (hwf : cfg.wellFormed = true) (hu : cfg.inUse c = true) :
    (cfg.chan c).minDb ≤ (cfg.chan c).maxDb := by
  obtain ⟨-, -, -, -, hranges, -⟩ := (Config.wellFormed_iff cfg).mp hwf
  exact ((Config.rangesOk_iff cfg).mp hranges c (Config.micIn_of_inUse hu)).1

theorem Config.step_pos (hwf : cfg.wellFormed = true) (hu : cfg.inUse c = true) : 0 < (cfg.chan c).step := by
  obtain ⟨-, -, -, -, hranges, -⟩ := (Config.wellFormed_iff cfg).mp hwf
  exact ((Config.rangesOk_iff cfg).mp hranges c (Config.micIn_of_inUse hu)).2

/-- Every code fits the code field (condition (8)). -/
theorem Config.code_fits (hwf : cfg.wellFormed = true) (hu : cfg.inUse c = true) (d : ExtRat) :
    0 ≤ (cfg.chan c).code d ∧ (cfg.chan c).code d < 2 ^ (cfg.chan c).codeWidth := by
  obtain ⟨-, -, -, -, -, -, -, hcodes, -⟩ := (Config.wellFormed_iff cfg).mp hwf
  obtain ⟨hlo, -, hhi⟩ := (Config.codesOk_iff cfg).mp hcodes c (Config.micIn_of_inUse hu)
  obtain ⟨hmin, hmax⟩ := ChannelParams.code_mem (Config.range_le hwf hu) (Config.step_pos hwf hu) d
  exact ⟨hlo.trans hmin, hmax.trans_lt hhi⟩

/-- The 8-bit code register holds the code exactly. -/
theorem Config.codeByte_toNat (hwf : cfg.wellFormed = true) (hu : cfg.inUse c = true) (d : ExtRat) :
    ((cfg.codeByte c d).toNat : ℤ) = (cfg.chan c).code d := by
  obtain ⟨hlo, hhi⟩ := Config.code_fits hwf hu d
  have hpow : (2 : ℤ) ^ (cfg.chan c).codeWidth ≤ 2 ^ 8 :=
    pow_le_pow_right₀ (by decide) (Config.codeWidth_le hwf hu)
  rw [Config.codeByte, BitVec.toNat_ofInt]
  omega

theorem Config.codeByte_fits (hwf : cfg.wellFormed = true) (hu : cfg.inUse c = true) (d : ExtRat) :
    (cfg.codeByte c d).toNat < 2 ^ (cfg.chan c).codeWidth := by
  have hcode := Config.codeByte_toNat hwf hu d
  exact_mod_cast hcode.trans_lt (Config.code_fits hwf hu d).2

/-- Settles O12: CLAMP saturates and is monotone, and so is the code; the half step is that of RTN. -/
theorem saturationAndRange : Obligations.SaturationAndRange := by
  intro cfg c hwf hu p
  have hr : p.minDb ≤ p.maxDb := Config.range_le hwf hu
  have hs : 0 < p.step := Config.step_pos hwf hu
  exact ⟨fun d h => ChannelParams.code_of_clampDb_eq_minDb hr (ChannelParams.clampDb_of_lt_minDb h),
    fun d h => ChannelParams.code_of_clampDb_eq_maxDb hr (ChannelParams.clampDb_of_gt_maxDb hr h),
    ChannelParams.code_mem hr hs,
    fun d d' h => ChannelParams.code_le_of_clampDb_le hs (ChannelParams.clampDb_mono hr h),
    fun q => ChannelParams.abs_dbOf_code_sub_le hs,
    Config.code_fits hwf hu⟩

end InUse

/-! ### The operand words of R137 -/

theorem f32Value_of_zero {d : F32} (he : f32Exponent d = 0) (hf : f32Fraction d = 0) : f32Value d = .fin 0 := by
  rw [f32Value_of_exponent_ne (by omega), if_pos he, hf]
  simp

theorem f32Value_of_infinity {d : F32} (he : f32Exponent d = 255) (hf : f32Fraction d = 0) :
    f32Value d = if d.getLsbD 31 then .negInf else .posInf :=
  (f32Value_of_exponent_255 he).trans (if_pos hf)

theorem f32Value_of_nan {d : F32} (he : d.extractLsb' 23 8 = 255#8) (hf : d.extractLsb' 0 23 ≠ 0#23) :
    f32Value d = .nan :=
  (f32Value_of_exponent_255 (congrArg BitVec.toNat he)).trans
    (if_neg fun h => hf (BitVec.eq_of_toNat_eq h))

/-- Settles O13: the words by their fields, and the rationals by `CLAMP` and the ties of `RTN`. -/
theorem specialOperandWords : Obligations.SpecialOperandWords := by
  intro cfg c hwf hu p
  have hr : p.minDb ≤ p.maxDb := Config.range_le hwf hu
  have hs : 0 < p.step := Config.step_pos hwf hu
  refine ⟨f32Value_of_zero (by decide) (by decide), f32Value_of_zero (by decide) (by decide),
    ChannelParams.code_of_clampDb_eq_maxDb hr ?_, ChannelParams.code_of_clampDb_eq_minDb hr ?_,
    fun d he hf => ChannelParams.code_of_clampDb_eq_minDb hr ?_,
    fun k => ChannelParams.code_fin_tie_above hs, fun k => ChannelParams.code_fin_tie_below hs,
    ChannelParams.clampDb_fin_minDb hr, ChannelParams.clampDb_fin_maxDb hr⟩
  · rw [f32Value_of_infinity (by decide) (by decide)]
    rfl
  · rw [f32Value_of_infinity (by decide) (by decide)]
    rfl
  · rw [f32Value_of_nan he hf]
    rfl

end Sys2Proof

namespace Sys2Proof.Machine

/-! ### CLAMP, QCODE and QUANTIZE as instructions -/

theorem withChannel_of_inUse {s : State} {c : Channel} (h : s.cfg.inUse c = true) (next : State) :
    withChannel c s next = .next next := if_pos h

theorem exec_clamp {s : State} {c : Channel} (hu : s.cfg.inUse c = true) (d : ExtRat) :
    exec (.clamp c d) s = .next { s with res := .db ((s.cfg.chan c).clampDb d) } := withChannel_of_inUse hu _

/-- Settles O9: CLAMP answers `clampDb`, by where the operand lies. -/
theorem clampSaturates : Obligations.ClampSaturates := by
  intro s c hwf hu lo hi
  have hr : lo ≤ hi := Config.range_le hwf hu
  refine ⟨exec_clamp hu _, exec_clamp hu _, exec_clamp hu _, fun q h => ?_, fun q h => ?_, fun q hlo hhi => ?_,
    ChannelParams.clampDb_mem hr⟩
  · rw [exec_clamp hu, ChannelParams.clampDb_fin_of_lt h]
  · rw [exec_clamp hu, ChannelParams.clampDb_fin_of_gt hr h]
  · rw [exec_clamp hu, ChannelParams.clampDb_fin_of_mem hlo hhi]

/-- Settles O11: QCODE answers `code`, which is the inverse of `dbOf` on the gains of the range that a code stands
for. -/
theorem codeOfDecibels : Obligations.CodeOfDecibels :=
  ⟨fun _ _ _ hu => withChannel_of_inUse hu _, fun p => ⟨rfl, rfl, p.dbOf_eq⟩,
    fun _ => ChannelParams.code_fin_zero, fun _ _ => ChannelParams.code_fin_dbOf, ChannelParams.dbOf_add_one⟩

/-- Settles O14: the two registers hold `codeByte`, which is the code exactly. -/
theorem quantizeWritesBothCodes : Obligations.QuantizeWritesBothCodes := fun s c l r hu =>
  ⟨s.cfg.codeByte c l, s.cfg.codeByte c r, withChannel_of_inUse hu _,
    fun hwf => ⟨Config.codeByte_toNat hwf hu l, Config.codeByte_toNat hwf hu r⟩⟩

end Sys2Proof.Machine
end

section
/-! SUPPORT. PACK as an instruction and as a write of the bits its side owns (O15 to O18; R140, R143, R145, R147, R148,
R150, R151). -/

namespace Sys2Proof

variable {cfg : Config} {c : Channel} {sd : Side} {k : Byte}

/-! ### PACK replaces the bits of a mask -/

/-- The bits PACK writes: the code in its field, and the enables unless muted (R143). -/
def Config.packBits (cfg : Config) (c : Channel) (sd : Side) (k : Byte) (m : Bool) : Byte :=
  ((k <<< cfg.codeLsb c sd) &&& cfg.fieldMask c sd) ||| cfg.enableBits c sd m

theorem Config.packByte_eq (cfg : Config) (c : Channel) (sd : Side) (t k : Byte) (m : Bool) :
    cfg.packByte c sd t k m = (t &&& ~~~ cfg.ownMask c sd) ||| cfg.packBits c sd k m :=
  BitVec.or_assoc ..

/-- The bits PACK writes are the side's own (R147). -/
theorem Config.packBits_and_ownMask (cfg : Config) (c : Channel) (sd : Side) (k : Byte) (m : Bool) :
    cfg.packBits c sd k m &&& cfg.ownMask c sd = cfg.packBits c sd k m := by
  ext i hi
  have henable := congrArg (fun v : Byte => v[i]) (cfg.enableBits_and_enMask c sd m)
  simp only [Config.packBits, Config.ownMask, BitVec.getElem_and, BitVec.getElem_or] at henable ⊢
  grind

/-- PACK depends on the foreign bits of the byte read only (R148). -/
theorem Config.packByte_congr {t t' : Byte} (h : t &&& ~~~ cfg.ownMask c sd = t' &&& ~~~ cfg.ownMask c sd) (k : Byte)
    (m : Bool) : cfg.packByte c sd t k m = cfg.packByte c sd t' k m := by
  rw [Config.packByte_eq, h, ← Config.packByte_eq]

/-- Replacing the bits of two disjoint masks, in either order. -/
theorem replace_bits_comm {a b va vb : Byte} (hd : a &&& b = 0#8) (ha : va &&& a = va) (hb : vb &&& b = vb)
    (t : Byte) :
    (((t &&& ~~~ a) ||| va) &&& ~~~ b) ||| vb = (((t &&& ~~~ b) ||| vb) &&& ~~~ a) ||| va := by
  ext i hi
  have hd := congrArg (fun v : Byte => v[i]) hd
  have ha := congrArg (fun v : Byte => v[i]) ha
  have hb := congrArg (fun v : Byte => v[i]) hb
  simp only [BitVec.getElem_and, BitVec.getElem_or, BitVec.getElem_not, BitVec.getElem_zero] at hd ha hb ⊢
  grind

/-- Settles O18: the two sides of a shared register own disjoint bits (R11 (9)). -/
theorem sharedSidesCommute : Obligations.SharedSidesCommute := by
  intro cfg c t kl kr m hwf hu ha
  simp only [Config.packByte_eq]
  exact replace_bits_comm (Config.ownMask_disjoint_of_shared hwf hu ha) (cfg.packBits_and_ownMask c .left kl m)
    (cfg.packBits_and_ownMask c .right kr m) t

/-- Settles O16: the foreign bits of one side, and of both sides one after the other. -/
theorem packKeepsForeignBits : Obligations.PackKeepsForeignBits := fun cfg c sd t k kr m =>
  ⟨cfg.packByte_foreign c sd t k m, cfg.packByte_foreign c sd t k m, cfg.packBoth_foreign c k kr t m⟩

/-! ### The enables and the code field of a side (R11, R140, R141) -/

theorem Config.ownMask_and_fieldMask (cfg : Config) (c : Channel) (sd : Side) :
    cfg.ownMask c sd &&& cfg.fieldMask c sd = cfg.fieldMask c sd := by
  ext i hi
  simp only [Config.ownMask, BitVec.getElem_and, BitVec.getElem_or]
  grind

theorem Config.ownMask_and_enMask (cfg : Config) (c : Channel) (sd : Side) :
    cfg.ownMask c sd &&& cfg.enMask c sd = cfg.enMask c sd := by
  ext i hi
  simp only [Config.ownMask, BitVec.getElem_and, BitVec.getElem_or]
  grind

theorem Config.fieldMask_disjoint_enMask (hwf : cfg.wellFormed = true) (hu : cfg.inUse c = true) (sd : Side) :
    cfg.fieldMask c sd &&& cfg.enMask c sd = 0#8 := by
  obtain ⟨-, -, -, -, -, -, henables, -⟩ := (Config.wellFormed_iff cfg).mp hwf
  exact ((Config.enablesOk_iff cfg).mp henables c sd (Config.micIn_of_inUse hu)).1

section Fits

variable (hwf : cfg.wellFormed = true) (hu : cfg.inUse c = true) (hk : k.toNat < 2 ^ (cfg.chan c).codeWidth)
include hwf hu hk

theorem Config.packByte_and_enMask (t : Byte) (m : Bool) :
    cfg.packByte c sd t k m &&& cfg.enMask c sd = cfg.enableBits c sd m := by
  have hw := Config.codeWidth_le hwf hu
  have hcode : (k <<< cfg.codeLsb c sd) &&& cfg.enMask c sd = 0#8 := by
    rw [← Config.shiftLeft_and_fieldMask hw hk, BitVec.and_assoc, Config.fieldMask_disjoint_enMask hwf hu,
      BitVec.and_zero]
  rw [← Config.ownMask_and_enMask, ← BitVec.and_assoc, Config.packByte_owned hw hk, BitVec.and_or_distrib_right,
    hcode, Config.enableBits_and_enMask, BitVec.zero_or]

theorem Config.packByte_and_fieldMask (t : Byte) (m : Bool) :
    cfg.packByte c sd t k m &&& cfg.fieldMask c sd = k <<< cfg.codeLsb c sd := by
  have hw := Config.codeWidth_le hwf hu
  have henable : cfg.enableBits c sd m &&& cfg.fieldMask c sd = 0#8 := by
    rw [← Config.enableBits_and_enMask, BitVec.and_assoc, BitVec.and_comm (cfg.enMask c sd),
      Config.fieldMask_disjoint_enMask hwf hu, BitVec.and_zero]
  rw [← Config.ownMask_and_fieldMask, ← BitVec.and_assoc, Config.packByte_owned hw hk, BitVec.and_or_distrib_right,
    henable, Config.shiftLeft_and_fieldMask hw hk, BitVec.or_zero]

end Fits

/-- Settles O17: `packByte_owned` on the whole mask, on the enables and on the field, and that PACK depends on the
foreign bits only. -/
theorem packDeterminesOwnedBits : Obligations.PackDeterminesOwnedBits := fun cfg c sd t _ k m hwf hu hk =>
  ⟨Config.packByte_owned (Config.codeWidth_le hwf hu) hk t m, Config.packByte_and_enMask hwf hu hk t true,
    Config.packByte_and_enMask hwf hu hk t false, Config.packByte_and_fieldMask hwf hu hk t m,
    fun h => Config.packByte_congr h k m, Config.packByte_congr (cfg.packByte_foreign c sd t k m) k m⟩

end Sys2Proof

namespace Sys2Proof.Machine

/-- Settles O15: a code that fits its field is not cut by it. -/
theorem packMakesGainByte : Obligations.PackMakesGainByte := by
  intro s c sd t k m hwf hu hk w
  have hbyte : s.cfg.packByte c sd t k m = w := by
    rw [Config.packByte, Config.shiftLeft_and_fieldMask (Config.codeWidth_le hwf hu) hk]
    rfl
  rw [← hbyte]
  exact withChannel_of_inUse hu _

end Sys2Proof.Machine
end

section
/-! SUPPORT. One transaction of RMW (O25; R144) and of SET_GAIN (O27; R145) as instructions. -/

namespace Sys2Proof.Machine

variable {s t : State} {a : Addr} {f : ByteFn} {b : Byte} {e : Env} {n : Nat}

/-! ### What an internal operation reports -/

@[simp] theorem report_env (i : Instr) (n : Nat) (bad : OpResult) (x : State × Progress) :
    (report i n bad x).env = x.1.env := by
  obtain ⟨u, p⟩ := x
  cases p <;> rfl

/-! ### The transactions of RMW, by their answers -/

theorem rmw_read_ok (hp : n % 2 = 0) (h : s.answerRead a = some (some b, e)) :
    rmw n a f s = ({ gotRead a (some b) e s with idx := s.idx + 1, tmp := b }, .more) := by
  simp [rmw, hp, readReg_ok a b h]

theorem rmw_read_fail (hp : n % 2 = 0) (h : s.answerRead a = some (none, e)) :
    rmw n a f s = (gotRead a none e s, .fail) := by
  simp [rmw, hp, readReg_fail a h]

theorem rmw_write_ok (hp : n % 2 = 1) (h : s.answerWrite (encodeFrame a [f.apply s.cfg s.tmp]) = some (true, e)) :
    rmw n a f s =
      ({ wrote false (encodeFrame a [f.apply s.cfg s.tmp]) true e s with idx := s.idx + 1 }, .done) := by
  simp [rmw, hp, send_ok _ _ _ h]

theorem rmw_write_fail (hp : n % 2 = 1) (h : s.answerWrite (encodeFrame a [f.apply s.cfg s.tmp]) = some (false, e)) :
    rmw n a f s = (wrote false (encodeFrame a [f.apply s.cfg s.tmp]) false e s, .fail) := by
  simp [rmw, hp, send_fail _ _ _ h]

/-- The read of an RMW changes no codec register (R58). -/
theorem rmw_sameCodec (hp : n % 2 = 0) (a : Addr) (f : ByteFn) (s : State) : SameCodec s (rmw n a f s).1 := by
  rcases rmw_cases n a f s with h | ⟨-, e, ha, h⟩ | ⟨-, b, e, ha, h⟩ | ⟨hodd, -⟩ | ⟨hodd, -⟩
  · rw [h]
    exact fun _ => rfl
  · rw [h]
    exact sameCodec_of_answerRead ha (by simp)
  · rw [h]
    exact sameCodec_of_answerRead ha (by simp)
  · omega
  · omega

/-- The write-back of an RMW changes the codec at its register only (log 33). -/
theorem rmw_sameOutside (hp : n % 2 = 1) (a : Addr) (f : ByteFn) (s : State) :
    SameOutside a 1 s (rmw n a f s).1 := by
  rcases rmw_cases n a f s with h | ⟨heven, -⟩ | ⟨heven, -⟩ | ⟨-, e, ha, h⟩ | ⟨-, e, ha, h⟩
  · rw [h]
    exact fun _ _ => rfl
  · omega
  · omega
  · rw [h]
    exact sameOutside_of_answerWrite ha (by simp)
  · rw [h]
    exact sameOutside_of_answerWrite ha (by simp)

/-! ### RMW as an instruction -/

/-- What an execution of an RMW leaves of the environment is what its transaction leaves. -/
theorem exec_rmw_env (hf : f.wellFormed s.cfg = true) (hx : exec (.rmw a f) s = .next t) :
    t.env = (rmw (s.callAt (.rmw a f)) a f s).1.env := by
  rw [exec_rmw hf] at hx
  cases hx
  exact report_env ..

/-- Settles O25: the transaction the position selects, by its answer. -/
theorem rmwReadsThenWrites : Obligations.RmwReadsThenWrites := by
  intro s a f hf n
  refine ⟨fun h => callAt_of_no_call h _, fun hp => ⟨fun b e h => ?_, fun e h => ?_, fun t hx x => ?_⟩,
    fun hp => ⟨fun e h => ?_, fun e h => ?_, fun t hx x hout => ?_⟩⟩
  · rw [exec_rmw hf, rmw_read_ok hp h]
    rfl
  · rw [exec_rmw hf, rmw_read_fail hp h]
    rfl
  · rw [exec_rmw_env hf hx]
    exact rmw_sameCodec hp a f s x
  · rw [exec_rmw hf, rmw_write_ok hp h, wrote_encodeFrame]
    rfl
  · rw [exec_rmw hf, rmw_write_fail hp h, wrote_encodeFrame]
    rfl
  · rw [exec_rmw_env hf hx]
    exact rmw_sameOutside hp a f s x hout

/-! ### The moves of SET_GAIN (R145) -/

section Moves

variable {cfg : Config} {c : Channel} {mv : GainMove} {l r : ExtRat} {m : Bool}

theorem gainMoves_of_shared (h : cfg.regAddr c .left = cfg.regAddr c .right) : gainMoves cfg c = [⟨c, .both⟩] :=
  if_pos h

theorem gainMoves_of_separate (h : cfg.regAddr c .left ≠ cfg.regAddr c .right) :
    gainMoves cfg c = [⟨c, .left⟩, ⟨c, .right⟩] := if_neg h

theorem gainMoves_ch (h : mv ∈ gainMoves cfg c) : mv.ch = c := by
  by_cases ha : cfg.regAddr c .left = cfg.regAddr c .right
  · rw [gainMoves_of_shared ha, List.mem_singleton] at h
    rw [h]
  · rw [gainMoves_of_separate ha, List.mem_pair] at h
    rcases h with rfl | rfl <;> rfl

theorem GainMove.addr_eq (cfg : Config) (mv : GainMove) :
    mv.addr cfg = if mv.carry = .right then cfg.regAddr mv.ch .right else cfg.regAddr mv.ch .left := by
  obtain ⟨ch, carry⟩ := mv
  cases carry <;> rfl

/-- The first transaction of a move that carries the left side enters SET_GAIN. -/
theorem enterGain_even (hp : n % 2 = 0) (mv : GainMove) (l r : ExtRat) (s : State) :
    enterGain n mv l r s = if mv.carry = .right then s else
      { s with ch := mv.ch, lcode := s.cfg.codeByte mv.ch l, rcode := s.cfg.codeByte mv.ch r } := by
  simp [enterGain, hp, quantize]

/-! ### SET_GAIN as an instruction -/

theorem exec_setGain (hu : s.cfg.inUse c = true) (hn : s.callAt (.setGain c l r m) = n) :
    exec (.setGain c l r m) s =
      .next (report (.setGain c l r m) n .fail (gainStep n (gainMoves s.cfg c) l r m s)) := by
  subst hn
  exact withChannel_of_inUse hu _

/-- `gainStep_at`, by what the RMW of the move comes to. -/
theorem gainStep_of_rmw {moves : List GainMove} {x : State × Progress} (hmv : moves[n / 2]? = some mv)
    (hx : rmw n (mv.addr s.cfg) (mv.fn (enterGain n mv l r s).lcode (enterGain n mv l r s).rcode m)
      (enterGain n mv l r s) = x) :
    gainStep n moves l r m s =
      (x.1, if x.2 = .done then (if 2 * moves.length ≤ n + 1 then .done else .more) else x.2) := by
  subst hx
  exact gainStep_at n moves l r m mv hmv

/-- `gainStep_of_rmw` for a write-back, which no entry comes before. -/
theorem gainStep_of_rmw_odd {moves : List GainMove} {x : State × Progress} (hp : n % 2 = 1)
    (hmv : moves[n / 2]? = some mv) (hx : rmw n (mv.addr s.cfg) (mv.fn s.lcode s.rcode m) s = x) :
    gainStep n moves l r m s =
      (x.1, if x.2 = .done then (if 2 * moves.length ≤ n + 1 then .done else .more) else x.2) :=
  gainStep_of_rmw hmv (by rw [enterGain_odd n mv l r hp, hx])

section Transaction

variable (hu : s.cfg.inUse c = true) (hn : s.callAt (.setGain c l r m) = n)
  (hmv : (gainMoves s.cfg c)[n / 2]? = some mv)
include hu hn hmv

theorem exec_setGain_read_ok (hp : n % 2 = 0) (h : s.answerRead (mv.addr s.cfg) = some (some b, e)) :
    exec (.setGain c l r m) s = .next { enterGain n mv l r s with
      res := .pending, call := some (.setGain c l r m, n + 1), tmp := b, idx := s.idx + 1,
      env := e.noteRead s.cfg (mv.addr s.cfg) (some b),
      trace := s.trace ++ [.read s.cfg.devAddr (mv.addr s.cfg) (some b)] } := by
  rw [← enterGain_answerRead n mv l r] at h
  rw [exec_setGain hu hn, gainStep_of_rmw hmv (rmw_read_ok hp h)]
  simp [report, gotRead]

theorem exec_setGain_read_fail (hp : n % 2 = 0) (h : s.answerRead (mv.addr s.cfg) = some (none, e)) :
    exec (.setGain c l r m) s = .next { enterGain n mv l r s with
      res := .fail, call := none, env := e,
      trace := s.trace ++ [.read s.cfg.devAddr (mv.addr s.cfg) none] } := by
  rw [← enterGain_answerRead n mv l r] at h
  rw [exec_setGain hu hn, gainStep_of_rmw hmv (rmw_read_fail hp h)]
  simp [report, gotRead, Env.noteRead]

theorem exec_setGain_write_ok {w : Byte} (hp : n % 2 = 1) (hw : (mv.fn s.lcode s.rcode m).apply s.cfg s.tmp = w)
    (h : s.answerWrite (encodeFrame (mv.addr s.cfg) [w]) = some (true, e)) :
    exec (.setGain c l r m) s = .next { s with
      res := if 2 * (gainMoves s.cfg c).length ≤ n + 1 then .ok else .pending,
      call := if 2 * (gainMoves s.cfg c).length ≤ n + 1 then none else some (.setGain c l r m, n + 1),
      idx := s.idx + 1, env := e.noteWrite s.cfg false (mv.addr s.cfg) [w],
      trace := s.trace ++ [.write s.cfg.devAddr (encodeFrame (mv.addr s.cfg) [w]) true] } := by
  subst hw
  rw [exec_setGain hu hn, gainStep_of_rmw_odd hp hmv (rmw_write_ok hp h), wrote_encodeFrame]
  by_cases hl : 2 * (gainMoves s.cfg c).length ≤ n + 1 <;> simp only [hl, if_true, if_false, report]

theorem exec_setGain_write_fail {w : Byte} (hp : n % 2 = 1) (hw : (mv.fn s.lcode s.rcode m).apply s.cfg s.tmp = w)
    (h : s.answerWrite (encodeFrame (mv.addr s.cfg) [w]) = some (false, e)) :
    exec (.setGain c l r m) s = .next { s with
      res := .fail, call := none, env := e.noteWrite s.cfg false (mv.addr s.cfg) [w],
      trace := s.trace ++ [.write s.cfg.devAddr (encodeFrame (mv.addr s.cfg) [w]) false] } := by
  subst hw
  rw [exec_setGain hu hn, gainStep_of_rmw_odd hp hmv (rmw_write_fail hp h), wrote_encodeFrame]
  rfl

/-- What an execution of SET_GAIN leaves of the environment is what the RMW of its move leaves. -/
theorem exec_setGain_env (hx : exec (.setGain c l r m) s = .next t) :
    ∃ f, t.env = (rmw n (mv.addr s.cfg) f (enterGain n mv l r s)).1.env := by
  rw [exec_setGain hu hn, gainStep_of_rmw hmv rfl] at hx
  cases hx
  exact ⟨_, report_env ..⟩

theorem exec_setGain_sameCodec (hp : n % 2 = 0) (hx : exec (.setGain c l r m) s = .next t) : SameCodec s t := by
  obtain ⟨f, henv⟩ := exec_setGain_env hu hn hmv hx
  intro x
  rw [henv, rmw_sameCodec hp _ _ _ x, enterGain_env]

theorem exec_setGain_sameOutside (hp : n % 2 = 1) (hx : exec (.setGain c l r m) s = .next t) :
    SameOutside (mv.addr s.cfg) 1 s t := by
  obtain ⟨f, henv⟩ := exec_setGain_env hu hn hmv hx
  intro x hout
  rw [henv, rmw_sameOutside hp _ _ _ x hout, enterGain_env]

end Transaction

/-- Settles O27: the transaction of the move that the position selects, by its answer. -/
theorem setGainTransactions : Obligations.SetGainTransactions := by
  intro s c l r m mv hu moves a u w i n
  refine ⟨fun h => callAt_of_no_call h i, fun hmv hp => ?_, fun hmv hp => ?_⟩
  · have hc : mv.ch = c := gainMoves_ch (List.mem_of_getElem? hmv)
    have ha : mv.addr s.cfg = a := by rw [GainMove.addr_eq, hc]
    have hentry : enterGain n mv l r s = u := by rw [enterGain_even hp, hc]
    rw [← ha, ← hentry]
    exact ⟨fun b e => exec_setGain_read_ok hu rfl hmv hp, fun e => exec_setGain_read_fail hu rfl hmv hp,
      fun t => exec_setGain_sameCodec hu rfl hmv hp⟩
  · have hc : mv.ch = c := gainMoves_ch (List.mem_of_getElem? hmv)
    have ha : mv.addr s.cfg = a := by rw [GainMove.addr_eq, hc]
    have hw : (mv.fn s.lcode s.rcode m).apply s.cfg s.tmp = w := by
      simp only [GainMove.fn, hc, w]
      cases mv.carry <;> rfl
    rw [← ha]
    exact ⟨fun e => exec_setGain_write_ok hu rfl hmv hp hw, fun e => exec_setGain_write_fail hu rfl hmv hp hw,
      fun t => exec_setGain_sameOutside hu rfl hmv hp⟩

end Moves

end Sys2Proof.Machine
end

section
/-! SUPPORT. A whole SET_GAIN on a script of answers, and alone on the bus (O28; R145, R148, R149, R152, R200). -/

namespace Sys2Proof.Machine

variable {s t u : State} {c : Channel} {l r : ExtRat} {m : Bool} {mv : GainMove} {n : Nat} {b : Byte} {e : Env}
  {reads : List Byte} {rest : List BusAnswer}

/-! ### The transactions of the moves, one by one -/

/-- Transaction `n` of a list of read-modify-writes, when it is one of the move `mv`, whose read returns `b` (R145). -/
def moveEntry (cfg : Config) (l r : ExtRat) (m : Bool) (n : Nat) (mv : GainMove) (b : Byte) : TraceEntry :=
  if n % 2 = 0 then .read cfg.devAddr (mv.addr cfg) (some b)
  else .write cfg.devAddr (encodeFrame (mv.addr cfg)
    [(mv.fn (cfg.codeByte mv.ch l) (cfg.codeByte mv.ch r) m).apply cfg b]) true

theorem getElem?_flatMap_pair {α β : Type} (f g : α → β) (xs : List α) : ∀ n,
    (xs.flatMap fun x => [f x, g x])[n]? = xs[n / 2]?.map (if n % 2 = 0 then f else g) := by
  induction xs with
  | nil => simp
  | cons x xs ih =>
    intro n
    match n with
    | 0 => rfl
    | 1 => rfl
    | n + 2 =>
      have hdiv : (n + 2) / 2 = n / 2 + 1 := by omega
      simpa [hdiv] using ih n

theorem moveEntries_getElem? {cfg : Config} {moves : List GainMove} (hmv : moves[n / 2]? = some mv)
    (hb : reads[n / 2]? = some b) :
    (moveEntries cfg l r m moves reads)[n]? = some (moveEntry cfg l r m n mv b) := by
  have hpair : (moves.zip reads)[n / 2]? = some (mv, b) := List.getElem?_zip_eq_some.mpr ⟨hmv, hb⟩
  rw [moveEntries, getElem?_flatMap_pair, hpair, moveEntry]
  split <;> rfl

theorem moveEntries_length {cfg : Config} {moves : List GainMove} (h : reads.length = moves.length) :
    (moveEntries cfg l r m moves reads).length = 2 * reads.length := by
  simp [moveEntries, List.length_flatMap, h, mul_comm]

theorem moveAnswers_getElem? (hb : reads[n / 2]? = some b) :
    (moveAnswers reads)[n]? = some (if n % 2 = 0 then .ok b else .ok 0) := by
  rw [moveAnswers, getElem?_flatMap_pair, hb]
  split <;> rfl

theorem gainMoves_length_eq (cfg : Config) (c : Channel) :
    (gainMoves cfg c).length = if cfg.regAddr c .left = cfg.regAddr c .right then 1 else 2 := by
  rw [gainMoves]
  split <;> rfl

/-- The right side is not carried alone by the first move. -/
theorem pos_of_gainMove_right {cfg : Config} (hmv : (gainMoves cfg c)[n / 2]? = some mv) (hr : mv.carry = .right) :
    0 < n := by
  rcases Nat.eq_zero_or_pos n with rfl | hpos
  · unfold gainMoves at hmv
    split at hmv <;> cases hmv <;> cases hr
  · exact hpos

theorem lt_of_gainMove {moves : List GainMove} (hmv : moves[n / 2]? = some mv) : n < 2 * moves.length := by
  obtain ⟨hlt, -⟩ := List.getElem?_eq_some_iff.mp hmv
  omega

/-! ### How far a SET_GAIN has come -/

/-- SET_GAIN, begun in `s`, has done its first `n` transactions in `t`, and has returned if they are all of them. -/
structure GainAt (c : Channel) (l r : ExtRat) (m : Bool) (s : State) (n : Nat) (t : State) : Prop where
  cfg : t.cfg = s.cfg
  idx : t.idx = s.idx + BitVec.ofNat 16 n
  position : n < 2 * (gainMoves s.cfg c).length → t.callAt (.setGain c l r m) = n
  returned : 2 * (gainMoves s.cfg c).length ≤ n → t.res = .ok ∧ t.call = none
  codes : 0 < n → t.ch = c ∧ t.lcode = s.cfg.codeByte c l ∧ t.rcode = s.cfg.codeByte c r
  flags : t.st = s.st ∧ t.failed = s.failed ∧ t.busy = s.busy ∧ t.errKind = s.errKind ∧ t.errIndex = s.errIndex

theorem gainAt_zero (h : s.callAt (.setGain c l r m) = 0) : GainAt c l r m s 0 s where
  cfg := rfl
  idx := by simp
  position _ := h
  returned hle := by
    have := gainMoves_length s.cfg c
    omega
  codes h0 := absurd h0 (by decide)
  flags := ⟨rfl, rfl, rfl, rfl, rfl⟩

theorem GainAt.idx_succ (h : GainAt c l r m s n t) : t.idx + 1 = s.idx + BitVec.ofNat 16 (n + 1) := by
  simp [h.idx, BitVec.ofNat_add, BitVec.add_assoc]

/-- The read of a move finds the channel and the codes written, by its own entry or by the move before. -/
theorem GainAt.codes_entered (h : GainAt c l r m s n t) (hp : n % 2 = 0)
    (hmv : (gainMoves s.cfg c)[n / 2]? = some mv) :
    (enterGain n mv l r t).ch = c ∧ (enterGain n mv l r t).lcode = s.cfg.codeByte c l ∧
      (enterGain n mv l r t).rcode = s.cfg.codeByte c r := by
  rw [enterGain_even hp, gainMoves_ch (List.mem_of_getElem? hmv)]
  split
  · next hr => exact h.codes (pos_of_gainMove_right hmv hr)
  · exact ⟨rfl, by rw [h.cfg], by rw [h.cfg]⟩

section Transaction

variable (hu : s.cfg.inUse c = true) (h : GainAt c l r m s n t) (hmv : (gainMoves s.cfg c)[n / 2]? = some mv)
include hu h hmv

theorem GainAt.read_ok (hp : n % 2 = 0) (ha : t.answerRead (mv.addr s.cfg) = some (some b, e)) :
    ∃ u, exec (.setGain c l r m) t = .next u ∧ GainAt c l r m s (n + 1) u ∧ u.tmp = b ∧
      u.env = e.noteRead s.cfg (mv.addr s.cfg) (some b) ∧
      u.trace = t.trace ++ [moveEntry s.cfg l r m n mv b] := by
  have hlt := lt_of_gainMove hmv
  obtain ⟨hch, hlcode, hrcode⟩ := h.codes_entered hp hmv
  refine ⟨_, exec_setGain_read_ok (by rwa [h.cfg]) (h.position hlt) (by rwa [h.cfg]) hp (by rwa [h.cfg]),
    ⟨?_, h.idx_succ, fun _ => callAt_of_call rfl, fun hle => by omega, fun _ => ⟨hch, hlcode, hrcode⟩, ?_⟩,
    rfl, by rw [h.cfg], by rw [moveEntry, if_pos hp, h.cfg]⟩
  · simpa using h.cfg
  · simpa using h.flags

theorem GainAt.read_fail (hp : n % 2 = 0) (ha : t.answerRead (mv.addr s.cfg) = some (none, e)) (b : Byte) :
    ∃ u, exec (.setGain c l r m) t = .next u ∧ u.res = .fail ∧ u.call = none ∧ u.idx = t.idx ∧
      u.trace = t.trace ++ [(moveEntry s.cfg l r m n mv b).asFailed] := by
  refine ⟨_, exec_setGain_read_fail (by rwa [h.cfg]) (h.position (lt_of_gainMove hmv)) (by rwa [h.cfg]) hp
    (by rwa [h.cfg]), rfl, rfl, by simp, ?_⟩
  simp [moveEntry, hp, TraceEntry.asFailed, h.cfg]

omit hu in
/-- The byte of the write-back is made of the byte read with the codes of the entry. -/
theorem GainAt.fn_apply (hp : n % 2 = 1) : (mv.fn t.lcode t.rcode m).apply t.cfg t.tmp =
    (mv.fn (s.cfg.codeByte mv.ch l) (s.cfg.codeByte mv.ch r) m).apply s.cfg t.tmp := by
  obtain ⟨-, hlcode, hrcode⟩ := h.codes (by omega)
  rw [h.cfg, hlcode, hrcode, gainMoves_ch (List.mem_of_getElem? hmv)]

theorem GainAt.write_ok (hp : n % 2 = 1) {w : Byte}
    (hw : (mv.fn (s.cfg.codeByte mv.ch l) (s.cfg.codeByte mv.ch r) m).apply s.cfg t.tmp = w)
    (ha : t.answerWrite (encodeFrame (mv.addr s.cfg) [w]) = some (true, e)) :
    ∃ u, exec (.setGain c l r m) t = .next u ∧ GainAt c l r m s (n + 1) u ∧
      u.env = e.noteWrite s.cfg false (mv.addr s.cfg) [w] ∧
      u.trace = t.trace ++ [moveEntry s.cfg l r m n mv t.tmp] := by
  refine ⟨_, exec_setGain_write_ok (by rwa [h.cfg]) (h.position (lt_of_gainMove hmv)) (by rwa [h.cfg]) hp
    ((h.fn_apply hmv hp).trans hw) (by rwa [h.cfg]),
    ⟨h.cfg, h.idx_succ, fun hlt => callAt_of_call ?_, fun hle => ?_, fun _ => h.codes (by omega), h.flags⟩,
    by rw [h.cfg], by simp [moveEntry, hp, hw, h.cfg]⟩
  · simp [h.cfg, Nat.not_le.mpr hlt]
  · simp [h.cfg, hle]

theorem GainAt.write_fail (hp : n % 2 = 1)
    (ha : t.answerWrite (encodeFrame (mv.addr s.cfg)
      [(mv.fn (s.cfg.codeByte mv.ch l) (s.cfg.codeByte mv.ch r) m).apply s.cfg t.tmp]) = some (false, e)) :
    ∃ u, exec (.setGain c l r m) t = .next u ∧ u.res = .fail ∧ u.call = none ∧ u.idx = t.idx ∧
      u.trace = t.trace ++ [(moveEntry s.cfg l r m n mv t.tmp).asFailed] := by
  refine ⟨_, exec_setGain_write_fail (by rwa [h.cfg]) (h.position (lt_of_gainMove hmv)) (by rwa [h.cfg]) hp
    (h.fn_apply hmv hp) (by rwa [h.cfg]), rfl, rfl, rfl, ?_⟩
  simp [moveEntry, hp, TraceEntry.asFailed, h.cfg]

end Transaction

/-! ### A run of SET_GAIN on a script that gives the bytes to be read -/

/-- SET_GAIN, begun in `s`, has done its first `n` transactions, whose reads returned `reads`. -/
structure GainRun (c : Channel) (l r : ExtRat) (m : Bool) (s : State) (reads : List Byte) (n : Nat) (t : State) :
    Prop where
  gainAt : GainAt c l r m s n t
  trace : t.trace = s.trace ++ (moveEntries s.cfg l r m (gainMoves s.cfg c) reads).take n
  tmp : n % 2 = 1 → reads[n / 2]? = some t.tmp

theorem gainRun_zero (h : s.callAt (.setGain c l r m) = 0) (reads : List Byte) : GainRun c l r m s reads 0 s :=
  ⟨gainAt_zero h, by simp, fun h => absurd h (by decide)⟩

section Run

variable (hu : s.cfg.inUse c = true) (h : GainRun c l r m s reads n t)
  (hmv : (gainMoves s.cfg c)[n / 2]? = some mv) (hb : reads[n / 2]? = some b)
include hu h hmv hb

omit hu in
theorem GainRun.trace_succ (htrace : u.trace = t.trace ++ [moveEntry s.cfg l r m n mv b]) :
    u.trace = s.trace ++ (moveEntries s.cfg l r m (gainMoves s.cfg c) reads).take (n + 1) := by
  rw [htrace, h.trace, List.take_add_one, moveEntries_getElem? hmv hb, List.append_assoc]
  rfl

/-- The next transaction, answered `Ok`, a read with the byte to be read. -/
theorem GainRun.next_ok (ht : t.env.transport = .script ((if n % 2 = 0 then .ok b else .ok 0) :: rest)) :
    ∃ u, exec (.setGain c l r m) t = .next u ∧ GainRun c l r m s reads (n + 1) u ∧
      u.env.transport = .script rest := by
  rcases Nat.mod_two_eq_zero_or_one n with hp | hp
  · rw [if_pos hp] at ht
    obtain ⟨u, hx, hat, htmp, henv, htrace⟩ := h.gainAt.read_ok hu hmv hp (Env.answerRead_script_ok ht _ _ _)
    have hdiv : (n + 1) / 2 = n / 2 := by omega
    exact ⟨u, hx, ⟨hat, h.trace_succ hmv hb htrace, fun _ => by rw [hdiv, hb, htmp]⟩, by simp [henv]⟩
  · rw [if_neg (by omega)] at ht
    obtain rfl : t.tmp = b := Option.some.inj ((h.tmp hp).symm.trans hb)
    obtain ⟨e, hanswer, htransport, -⟩ := Env.answerWrite_script_spec ht t.trace.length (mv.addr s.cfg) [_]
      ((mv.fn (s.cfg.codeByte mv.ch l) (s.cfg.codeByte mv.ch r) m).apply s.cfg t.tmp)
    obtain ⟨u, hx, hat, henv, htrace⟩ := h.gainAt.write_ok hu hmv hp rfl hanswer
    exact ⟨u, hx, ⟨hat, h.trace_succ hmv hb htrace, fun hodd => by omega⟩, by simp [henv, htransport]⟩

/-- The next transaction, answered `Fail`: SET_GAIN ends with it. -/
theorem GainRun.next_fail (ht : t.env.transport = .script (.fail :: rest)) :
    ∃ u, exec (.setGain c l r m) t = .next u ∧ u.res = .fail ∧ u.call = none ∧ u.idx = t.idx ∧
      u.trace = t.trace ++ [(moveEntry s.cfg l r m n mv b).asFailed] := by
  rcases Nat.mod_two_eq_zero_or_one n with hp | hp
  · exact h.gainAt.read_fail hu hmv hp (Env.answerRead_script_fail ht _ _ _) b
  · obtain rfl : t.tmp = b := Option.some.inj ((h.tmp hp).symm.trans hb)
    obtain ⟨e, hanswer, -⟩ := Env.answerWrite_script_spec ht t.trace.length (mv.addr s.cfg) [_]
      ((mv.fn (s.cfg.codeByte mv.ch l) (s.cfg.codeByte mv.ch r) m).apply s.cfg t.tmp)
    exact h.gainAt.write_fail hu hmv hp hanswer

end Run

/-- The move and the byte of a transaction that is still to come. -/
theorem exists_gainMove {cfg : Config} (hlen : reads.length = (gainMoves cfg c).length) (hn : n < 2 * reads.length) :
    ∃ mv b, (gainMoves cfg c)[n / 2]? = some mv ∧ reads[n / 2]? = some b :=
  ⟨_, _, List.getElem?_eq_getElem (by omega), List.getElem?_eq_getElem (by omega)⟩

/-- As many transactions are done as answers come, by induction on their number. -/
theorem again_setGain_oks (hu : s.cfg.inUse c = true) (hs : s.callAt (.setGain c l r m) = 0)
    (hlen : reads.length = (gainMoves s.cfg c).length) (n : Nat) : ∀ rest, n ≤ 2 * reads.length →
      s.env.transport = .script ((moveAnswers reads).take n ++ rest) →
      ∃ t, again (.setGain c l r m) n s = .next t ∧ GainRun c l r m s reads n t ∧ t.env.transport = .script rest := by
  induction n with
  | zero => exact fun rest _ ht => ⟨s, rfl, gainRun_zero hs reads, by simpa using ht⟩
  | succ n ih =>
    intro rest hn ht
    obtain ⟨mv, b, hmv, hb⟩ := exists_gainMove hlen hn
    rw [List.take_add_one, moveAnswers_getElem? hb, List.append_assoc] at ht
    obtain ⟨t, hrun, hgain, htt⟩ := ih _ (by omega) ht
    obtain ⟨u, hx, hu', htu⟩ := hgain.next_ok hu hmv hb htt
    exact ⟨u, (again_succ_of_next _ _ hrun).trans hx, hu', htu⟩

/-- The first `j` transactions answered `Ok`, and the next one `Fail`. -/
theorem again_setGain_fail (hu : s.cfg.inUse c = true) (hs : s.callAt (.setGain c l r m) = 0)
    (hlen : reads.length = (gainMoves s.cfg c).length) {j : Nat}
    (hj : j < (moveEntries s.cfg l r m (gainMoves s.cfg c) reads).length)
    (ht : s.env.transport = .script ((moveAnswers reads).take j ++ .fail :: rest)) :
    ∃ t, again (.setGain c l r m) (j + 1) s = .next t ∧ t.res = .fail ∧ t.call = none ∧
      t.idx = s.idx + BitVec.ofNat 16 j ∧
      t.trace = s.trace ++ (moveEntries s.cfg l r m (gainMoves s.cfg c) reads).take j ++
        [(moveEntries s.cfg l r m (gainMoves s.cfg c) reads)[j].asFailed] := by
  have hjreads : j < 2 * reads.length := moveEntries_length hlen ▸ hj
  obtain ⟨mv, b, hmv, hb⟩ := exists_gainMove hlen hjreads
  obtain ⟨t, hrun, hgain, htt⟩ := again_setGain_oks hu hs hlen j _ hjreads.le ht
  obtain ⟨u, hx, hres, hcall, hidx, htrace⟩ := hgain.next_fail hu hmv hb htt
  have hentry : (moveEntries s.cfg l r m (gainMoves s.cfg c) reads)[j] = moveEntry s.cfg l r m j mv b :=
    Option.some.inj ((List.getElem?_eq_getElem hj).symm.trans (moveEntries_getElem? hmv hb))
  exact ⟨u, (again_succ_of_next _ _ hrun).trans hx, hres, hcall, hidx.trans hgain.gainAt.idx,
    by rw [htrace, hgain.trace, hentry]⟩

/-! ### Alone on the bus -/

/-- A read answered with what the register holds: its content when it is known, and any byte when it is not. -/
theorem Env.answerRead_script_held_spec (h : e.transport = .script (.held :: rest)) (lock : Addr) (ord : Nat)
    (a : Addr) :
    ∃ b e', e.answerRead lock ord a = some (some b, e') ∧ e'.transport = .script rest ∧
      e'.codecKnown = e.codecKnown ∧ (∀ b', e.peek a.toNat = some b' → b = b') ∧ ∀ x, e'.peek x = e.peek x := by
  obtain ⟨got, e', hanswer, htransport, hpeek, -, -, hknown, hunknown⟩ := Env.answerRead_script_spec h lock ord a
  obtain ⟨hmarks, -⟩ := Env.answerRead_spec _ _ _ _ _ _ hanswer
  cases hb : e.peek a.toNat with
  | some b =>
    rw [hknown b rfl hb] at hanswer
    exact ⟨b, e', hanswer, htransport, hmarks.codecKnown, fun b' hb' => Option.some.inj hb', hpeek⟩
  | none =>
    rw [(hunknown rfl hb).1] at hanswer
    exact ⟨_, e', hanswer, htransport, hmarks.codecKnown, nofun, hpeek⟩

/-- One move whose read returns what the register holds: the register then holds the byte made of it, and no other
register changes. -/
theorem GainAt.move_held (hu : s.cfg.inUse c = true) (h : GainAt c l r m s n t) (hp : n % 2 = 0)
    (hmv : (gainMoves s.cfg c)[n / 2]? = some mv) (hknown : t.env.codecKnown = true)
    (ht : t.env.transport = .script (.held :: .ok 0 :: rest)) :
    ∃ v b, again (.setGain c l r m) 2 t = .next v ∧ GainAt c l r m s (n + 2) v ∧
      v.env.codecKnown = true ∧ v.env.transport = .script rest ∧
      (∀ b', t.env.peek (mv.addr s.cfg).toNat = some b' → b = b') ∧
      v.env.peek (mv.addr s.cfg).toNat =
        some ((mv.fn (s.cfg.codeByte mv.ch l) (s.cfg.codeByte mv.ch r) m).apply s.cfg b) ∧
      SameOutside (mv.addr s.cfg) 1 t v := by
  obtain ⟨b, e, hread, hte, hke, hheld, hpe⟩ :=
    Env.answerRead_script_held_spec ht t.cfg.lockAddr t.trace.length (mv.addr s.cfg)
  obtain ⟨u, hxu, hgu, rfl, henvu, -⟩ := h.read_ok hu hmv hp hread
  have hmv' : (gainMoves s.cfg c)[(n + 1) / 2]? = some mv := by rwa [show (n + 1) / 2 = n / 2 by omega]
  have hpu (x : Nat) : u.env.peek x = t.env.peek x := by rw [henvu, Env.noteRead_peek, hpe]
  obtain ⟨e', hwrite, hte', -, hbyte, hframe⟩ := Env.answerWrite_script_spec (e := u.env) (l := rest) (ans := .ok 0)
    (by simpa [henvu] using hte) u.trace.length (mv.addr s.cfg) [_]
    ((mv.fn (s.cfg.codeByte mv.ch l) (s.cfg.codeByte mv.ch r) m).apply s.cfg u.tmp)
  have hku : u.env.codecKnown = true := by rw [henvu, Env.noteRead_codecKnown, hke, hknown]
  obtain ⟨hmarks, -⟩ := Env.answerWrite_spec _ _ _ _ _ hwrite
  obtain ⟨v, hxv, hgv, henvv, -⟩ := hgu.write_ok hu hmv' (by omega) rfl hwrite
  refine ⟨v, u.tmp, by simp only [again, hxu, hxv], hgv, ?_, ?_, hheld, ?_, fun x hx => ?_⟩
  · rw [henvv]
    exact hmarks.codecKnown.trans hku
  · rw [henvv]
    exact hte'
  · rw [henvv, Env.noteWrite_peek]
    exact hbyte (by simp) rfl hku
  · rw [henvv, Env.noteWrite_peek, hframe x hx, hpu]

theorem SameOutside.peek_of_ne {a : Addr} (h : SameOutside a 1 s t) {x : Nat} (hx : x ≠ a.toNat) :
    t.env.peek x = s.env.peek x :=
  h x (by simpa [Nat.mod_eq_of_lt a.isLt] using hx)

/-- Two numbers of executions, one after the other. -/
theorem again_add_of_next (i : Instr) (k : Nat) (hrun : again i n s = .next t) :
    again i (n + k) s = again i k t := by
  induction n generalizing s with
  | zero =>
    cases hrun
    rw [Nat.zero_add]
  | succ n ih =>
    rw [Nat.add_right_comm, again]
    rw [again] at hrun
    cases hx : exec i s with
    | next v =>
      rw [hx] at hrun
      exact ih hrun
    | fault _ | refused _ => simp [hx] at hrun

/-- The byte `f` makes of the content of a register, or of some byte when the content is not known, is in it after the
run. -/
def Rewritten (a : Addr) (f : Byte → Byte) (s t : State) : Prop :=
  ∃ b, (∀ b', s.env.peek a.toNat = some b' → b = b') ∧ t.env.peek a.toNat = some (f b)

/-- A SET_GAIN of a shared register, alone on the bus. -/
theorem again_setGain_held_shared (hu : s.cfg.inUse c = true) (hs : s.callAt (.setGain c l r m) = 0)
    (ha : s.cfg.regAddr c .left = s.cfg.regAddr c .right) (hknown : s.env.codecKnown = true)
    (ht : s.env.transport = .script (.held :: .ok 0 :: rest)) :
    ∃ t, again (.setGain c l r m) 2 s = .next t ∧ t.res = .ok ∧
      Rewritten (s.cfg.regAddr c .left)
        (fun b => s.cfg.packByte c .right (s.cfg.packByte c .left b (s.cfg.codeByte c l) m) (s.cfg.codeByte c r) m)
        s t ∧
      SameOutside (s.cfg.regAddr c .left) 1 s t := by
  have hmoves := gainMoves_of_shared ha
  obtain ⟨t, b, hrun, hgain, -, -, hheld, hbyte, hout⟩ :=
    (gainAt_zero hs).move_held (mv := ⟨c, .both⟩) hu rfl (by simp [hmoves]) hknown ht
  exact ⟨t, hrun, (hgain.returned (by simp [hmoves])).1, ⟨b, hheld, hbyte⟩, hout⟩

/-- A SET_GAIN of two registers, alone on the bus: the move of the right side leaves the register of the left. -/
theorem again_setGain_held_separate (hu : s.cfg.inUse c = true) (hs : s.callAt (.setGain c l r m) = 0)
    (ha : s.cfg.regAddr c .left ≠ s.cfg.regAddr c .right) (hknown : s.env.codecKnown = true)
    (ht : s.env.transport = .script (.held :: .ok 0 :: .held :: .ok 0 :: rest)) :
    ∃ t, again (.setGain c l r m) 4 s = .next t ∧ t.res = .ok ∧
      Rewritten (s.cfg.regAddr c .left) (fun b => s.cfg.packByte c .left b (s.cfg.codeByte c l) m) s t ∧
      Rewritten (s.cfg.regAddr c .right) (fun b => s.cfg.packByte c .right b (s.cfg.codeByte c r) m) s t ∧
      ∀ x, (∀ sd, x ≠ (s.cfg.regAddr c sd).toNat) → t.env.peek x = s.env.peek x := by
  have hmoves := gainMoves_of_separate ha
  have hne : (s.cfg.regAddr c .left).toNat ≠ (s.cfg.regAddr c .right).toNat := fun h => ha (BitVec.eq_of_toNat_eq h)
  obtain ⟨u, b, hrun, hgain, hku, htu, hheld, hbyte, hout⟩ :=
    (gainAt_zero hs).move_held (mv := ⟨c, .left⟩) hu rfl (by simp [hmoves]) hknown ht
  obtain ⟨t, b', hrun', hgain', -, -, hheld', hbyte', hout'⟩ :=
    hgain.move_held (mv := ⟨c, .right⟩) hu rfl (by simp [hmoves]) hku htu
  refine ⟨t, (again_add_of_next _ 2 hrun).trans hrun', (hgain'.returned (by simp [hmoves])).1, ⟨b, hheld, ?_⟩,
    ⟨b', fun x hx => hheld' x ?_, hbyte'⟩, fun x hx => ?_⟩
  · exact (hout'.peek_of_ne hne).trans hbyte
  · exact (hout.peek_of_ne hne.symm).trans hx
  · exact (hout'.peek_of_ne (hx .right)).trans (hout.peek_of_ne (hx .left))

/-! ### A whole SET_GAIN -/

/-- The operand of a side. -/
def operandOf (l r : ExtRat) : Side → ExtRat
  | .left => l
  | .right => r

/-- What O28 says the codec holds after a SET_GAIN alone on the bus: `own` are the bits of the register that SET_GAIN
writes, both sides' where they share it. -/
structure GainInCodec (c : Channel) (l r : ExtRat) (m : Bool) (own : Side → Byte) (s t : State) : Prop where
  sides : ∀ sd, ∃ w, t.env.peek (s.cfg.regAddr c sd).toNat = some w ∧
    w &&& s.cfg.ownMask c sd =
      (s.cfg.codeByte c (operandOf l r sd) <<< s.cfg.codeLsb c sd) ||| s.cfg.enableBits c sd m ∧
    ∀ b, s.env.peek (s.cfg.regAddr c sd).toNat = some b → w &&& ~~~ own sd = b &&& ~~~ own sd
  others : ∀ x, (∀ sd, x ≠ (s.cfg.regAddr c sd).toNat) → t.env.peek x = s.env.peek x

theorem gainInCodec_shared (hwf : s.cfg.wellFormed = true) (hu : s.cfg.inUse c = true)
    (hs : s.callAt (.setGain c l r m) = 0) (ha : s.cfg.regAddr c .left = s.cfg.regAddr c .right)
    (hknown : s.env.codecKnown = true) (ht : s.env.transport = .script (.held :: .ok 0 :: rest)) :
    ∃ t, again (.setGain c l r m) 2 s = .next t ∧ t.res = .ok ∧
      GainInCodec c l r m (fun _ => s.cfg.ownMask c .left ||| s.cfg.ownMask c .right) s t := by
  obtain ⟨t, hrun, hres, ⟨b, hheld, hbyte⟩, hout⟩ := again_setGain_held_shared hu hs ha hknown ht
  have haddr (sd : Side) : s.cfg.regAddr c sd = s.cfg.regAddr c .left := by
    cases sd with
    | left => rfl
    | right => exact ha.symm
  refine ⟨t, hrun, hres, fun sd => ⟨_, by rw [haddr]; exact hbyte, ?_, fun b' hb' => ?_⟩,
    fun x hx => hout.peek_of_ne (hx .left)⟩
  · exact Config.packBoth_owned b m (fun sd => s.cfg.codeByte c (operandOf l r sd)) (Config.codeWidth_le hwf hu)
      (fun sd => Config.codeByte_fits hwf hu _) (Config.ownMask_disjoint_of_shared hwf hu ha) sd
  · rw [← hheld b' (by rwa [haddr] at hb')]
    exact Config.packBoth_foreign ..

theorem gainInCodec_separate (hwf : s.cfg.wellFormed = true) (hu : s.cfg.inUse c = true)
    (hs : s.callAt (.setGain c l r m) = 0) (ha : s.cfg.regAddr c .left ≠ s.cfg.regAddr c .right)
    (hknown : s.env.codecKnown = true)
    (ht : s.env.transport = .script (.held :: .ok 0 :: .held :: .ok 0 :: rest)) :
    ∃ t, again (.setGain c l r m) 4 s = .next t ∧ t.res = .ok ∧ GainInCodec c l r m (s.cfg.ownMask c) s t := by
  obtain ⟨t, hrun, hres, hleft, hright, hothers⟩ := again_setGain_held_separate hu hs ha hknown ht
  have hsides (sd : Side) : Rewritten (s.cfg.regAddr c sd)
      (fun b => s.cfg.packByte c sd b (s.cfg.codeByte c (operandOf l r sd)) m) s t := by
    cases sd with
    | left => exact hleft
    | right => exact hright
  refine ⟨t, hrun, hres, fun sd => ?_, hothers⟩
  obtain ⟨b, hheld, hbyte⟩ := hsides sd
  refine ⟨_, hbyte, Config.packByte_owned (Config.codeWidth_le hwf hu) (Config.codeByte_fits hwf hu _) b m,
    fun b' hb' => ?_⟩
  rw [← hheld b' hb']
  exact Config.packByte_foreign ..

/-- Settles O28: the run of `again_setGain_oks`, whole and up to a transaction that fails; and alone on the bus the
bytes the moves leave in their registers. -/
theorem setGainTrace : Obligations.SetGainTrace := by
  intro s c l r m reads rest hu hs hreads entries
  have hlen : reads.length = (gainMoves s.cfg c).length := hreads.trans (gainMoves_length_eq s.cfg c).symm
  have hentries : entries.length = 2 * reads.length := moveEntries_length hlen
  have hanswers : (moveAnswers reads).length = 2 * reads.length := by simp [moveAnswers, mul_comm]
  refine ⟨fun ht => ?_, fun j => again_setGain_fail hu hs hlen, fun hwf hknown ht => ?_⟩
  · obtain ⟨t, hrun, hgain, -⟩ := again_setGain_oks hu hs hlen (2 * reads.length) rest le_rfl
      (by rwa [List.take_of_length_le hanswers.le])
    obtain ⟨hres, hcall⟩ := hgain.gainAt.returned (by omega)
    obtain ⟨hch, hlcode, hrcode⟩ := hgain.gainAt.codes (by split at hreads <;> omega)
    exact ⟨t, hrun, hres, hcall, hgain.gainAt.idx, by rw [hgain.trace, List.take_of_length_le hentries.le],
      hch, hlcode, hrcode, hgain.gainAt.flags⟩
  · intro own code
    have hcode : code = fun sd => s.cfg.codeByte c (operandOf l r sd) := by
      funext sd
      cases sd <;> rfl
    by_cases ha : s.cfg.regAddr c .left = s.cfg.regAddr c .right
    · obtain ⟨x, rfl⟩ := List.length_eq_one_iff.mp (hreads.trans (if_pos ha))
      obtain ⟨t, hrun, hres, hsides, hothers⟩ := gainInCodec_shared hwf hu hs ha hknown ht
      have hown : own = fun _ => s.cfg.ownMask c .left ||| s.cfg.ownMask c .right := funext fun _ => if_pos ha
      rw [hown, hcode]
      exact ⟨t, hrun, hres, hsides, hothers⟩
    · obtain ⟨x, y, rfl⟩ := List.length_eq_two.mp (hreads.trans (if_neg ha))
      obtain ⟨t, hrun, hres, hsides, hothers⟩ := gainInCodec_separate hwf hu hs ha hknown ht
      have hown : own = s.cfg.ownMask c := funext fun _ => if_neg ha
      rw [hown, hcode]
      exact ⟨t, hrun, hres, hsides, hothers⟩

end Sys2Proof.Machine
end

section
/-! SUPPORT. The transaction that T4 issues comes right after a locked read (O51; R163, R164, R171). -/

namespace Sys2Proof.Machine

variable {s u t : State}

/-! ### The order of the transitions (R96, R160 to R167) -/

/-- The sequencer state that the transition of a state leads to. -/
def SeqState.successor : SeqState → SeqState
  | .reset => .clockSourceDefault
  | .clockSourceDefault => .pllConfiguring
  | .pllConfiguring => .pllLocked
  | .pllLocked => .clockSourcePll
  | .clockSourcePll => .boardConfiguring
  | .boardConfiguring => .ready
  | .ready => .ready

theorem clkselStep_st (v : Byte) (target : SeqState) (s : State) :
    (clkselStep v target s).st = s.st ∨ (clkselStep v target s).st = target := by
  rcases clkselStep_cases s v target with h | ⟨e, -, h⟩ | ⟨e, -, h⟩ <;> rw [h]
  · exact .inl rfl
  · exact .inl rfl
  · exact .inr rfl

theorem execT2_st (hx : execT2 u = .next t) : t.st = u.st ∨ t.st = .pllConfiguring := by
  rcases execT2_cases u with ⟨-, h⟩ | ⟨cmds, -, ⟨-, h⟩ | ⟨k, -, ⟨-, h⟩ | ⟨-, h | ⟨e, -, h⟩ | ⟨e, -, h⟩⟩⟩⟩ <;>
    rw [h] at hx <;> cases hx
  case inr.inr.inr.inr.inr => split <;> simp
  all_goals simp

theorem execT3_st (hx : execT3 u = .next t) : t.st = u.st ∨ t.st = .pllLocked := by
  rcases execT3_cases u with h | ⟨e, -, h⟩ | ⟨b, e, -, -, h⟩ | ⟨b, e, -, -, h⟩ <;> rw [h] at hx <;> cases hx
  case inr.inr.inr => split <;> simp
  all_goals simp

theorem execT5_st (hx : execT5 u = .next t) : t.st = u.st ∨ t.st = .boardConfiguring := by
  rcases execT5_cases u with ⟨-, h⟩ | ⟨rows, -, ⟨-, h⟩ | ⟨row, -, h⟩ | ⟨row, e, -, ⟨-, h⟩ | ⟨-, h⟩⟩⟩ <;>
    rw [h] at hx <;> cases hx
  case inr.inr.inr.inr => split <;> simp
  all_goals simp

theorem execT6_st (hx : execT6 u = .next t) : t.st = u.st ∨ t.st = .ready := by
  rw [execT6_eq u _ rfl] at hx
  cases hx
  obtain ⟨-, hkeep, -⟩ := gainStep_flags (enter u).idx.toNat (defaultMoves u.cfg) (.fin 0) (.fin 0) false (enter u)
  rw [enter_st] at hkeep
  split
  case h_3 => exact .inr rfl
  all_goals exact .inl hkeep

/-- A transition keeps `ST` or completes. -/
theorem transition_st (hx : exec (transitionOf u.st) u = .next t) : t.st = u.st ∨ t.st = u.st.successor := by
  cases hst : u.st <;> rw [hst] at hx
  case reset | pllLocked =>
    cases hx
    exact (clkselStep_st _ _ (enter u)).imp (fun h => h.trans ((enter_st u).trans hst)) id
  case clockSourceDefault => exact (execT2_st hx).imp (fun h => h.trans hst) id
  case pllConfiguring => exact (execT3_st hx).imp (fun h => h.trans hst) id
  case clockSourcePll => exact (execT5_st hx).imp (fun h => h.trans hst) id
  case boardConfiguring => exact (execT6_st hx).imp (fun h => h.trans hst) id
  case ready =>
    cases hx
    exact .inl hst

/-- The state moves on before the next transaction only where a list is empty (R162, R165). -/
theorem skipEmpty_cases (t : State) :
    skipEmpty t = t ∨
    (t.st = .clockSourceDefault ∧ t.cfg.pllCommands = .ok [] ∧ skipEmpty t = goto .pllConfiguring (enter t)) ∨
    (t.st = .clockSourcePll ∧ t.cfg.boardTable = .ok [] ∧ skipEmpty t = goto .boardConfiguring (enter t)) := by
  unfold skipEmpty
  split
  · split
    · next hst =>
      split
      · next hc => exact .inr (.inl ⟨hst, hc, rfl⟩)
      · exact .inl rfl
    · next hst =>
      split
      · next hc => exact .inr (.inr ⟨hst, hc, rfl⟩)
      · exact .inl rfl
    · exact .inl rfl
  · exact .inl rfl

/-! ### How a START comes to T4 (R163, R171) -/

/-- T4 that has not moved on, and has not ended the START, has issued no transaction. -/
theorem execT4_waits (hx : execT4 u = .next t) (hb : t.busy = true) (ht : t.st = .pllLocked) :
    t.trace = u.trace := by
  cases hx
  rcases clkselStep_cases (enter u) u.cfg.clkselPll .clockSourcePll with h | ⟨e, -, h⟩ | ⟨e, -, h⟩ <;> rw [h] at hb ht ⊢
  · exact enter_trace u
  · cases hb
  · cases ht

/-- T3 is complete only with a locked read. -/
theorem execT3_locked (hst : u.st = .pllConfiguring) (hx : execT3 u = .next t) (ht : t.st = .pllLocked) :
    ∃ b, u.cfg.lockTest b = true ∧ t.trace = u.trace ++ [.read u.cfg.devAddr u.cfg.lockAddr (some b)] := by
  have hne : u.st ≠ .pllLocked := by simp [hst]
  rcases execT3_cases u with h | ⟨e, -, h⟩ | ⟨b, e, -, hl, h⟩ | ⟨b, e, -, -, h⟩ <;> rw [h] at hx <;> cases hx
  case inr.inr.inl => exact ⟨b, hl, by simp⟩
  case inr.inr.inr =>
    refine absurd ?_ hne
    split at ht <;> simpa using ht
  all_goals exact absurd (by simpa using ht) hne

/-- A START in progress that stands before T4 was there already and has issued no transaction, or T3 has just read a
byte that shows lock. -/
theorem transition_locked (hx : exec (transitionOf u.st) u = .next t) (hb : t.busy = true) (ht : t.st = .pllLocked) :
    (u.st = .pllLocked ∧ t.trace = u.trace) ∨
    ∃ b, u.cfg.lockTest b = true ∧ t.trace = u.trace ++ [.read u.cfg.devAddr u.cfg.lockAddr (some b)] := by
  have hfrom : u.st = .pllLocked ∨ u.st = .pllConfiguring := by
    have h := transition_st hx
    rw [ht] at h
    refine h.imp Eq.symm fun hs => ?_
    cases hst : u.st <;> rw [hst] at hs <;> cases hs
  rcases hfrom with hst | hst <;> rw [hst] at hx
  · exact .inl ⟨hst, execT4_waits hx hb ht⟩
  · exact .inr (execT3_locked hst hx ht)

/-! ### Every step keeps T4 behind a locked read -/

theorem lockedRead_iff (cfg : Config) (x : TraceEntry) :
    lockedRead cfg x = true ↔ ∃ b, cfg.lockTest b = true ∧ x = .read cfg.devAddr cfg.lockAddr (some b) := by
  constructor
  · intro h
    match x with
    | .read dev a (some b) =>
      obtain ⟨⟨rfl, rfl⟩, hb⟩ : (dev = cfg.devAddr ∧ a = cfg.lockAddr) ∧ cfg.lockTest b = true := by
        simpa [lockedRead] using h
      exact ⟨b, hb, rfl⟩
  · rintro ⟨b, hb, rfl⟩
    simp [lockedRead, hb]

theorem switchAfterLock_of_not_start (h : t.inStart = false) : t.SwitchAfterLock :=
  fun hs => absurd (h.symm.trans hs) (by decide)

theorem switchAfterLock_of_idle (h : t.busy = false) : t.SwitchAfterLock :=
  switchAfterLock_of_not_start (by simp [State.inStart, h])

theorem State.SwitchAfterLock.after_intake (h : s.SwitchAfterLock) : (intake s).SwitchAfterLock := by
  intro hs hst
  rw [settle_intake] at hst
  simpa using h (by simpa [State.inStart] using hs) hst

/-- Only T3 leads to T4: a transition without a transaction does not (R162, R165). -/
theorem st_of_skipEmpty_locked (h : (skipEmpty t).st = .pllLocked) : t.st = .pllLocked := by
  rcases skipEmpty_cases t with hskip | ⟨-, -, hskip⟩ | ⟨-, -, hskip⟩ <;> rw [hskip] at h
  · exact h
  · cases h
  · cases h

/-- A step of a START, landed. -/
theorem switchAfterLock_land {v : State} (hv : v.SwitchAfterLock) (hb : v.busy = true) (ho : v.op = 0#3)
    (hx : exec (transitionOf (settle v).st) (settle v) = .next t) : (land v (settle v) t).SwitchAfterLock := by
  have hub : (settle v).busy = true := by simpa using hb
  have huo : (settle v).op = 0#3 := by simpa using ho
  obtain ⟨heff, hl⟩ := transition_effect _ _ hub huo hx
  have hhold := holdable_transition hub huo (settle_due v) hx
  rcases land_cases v hub heff with ⟨htb, h⟩ | ⟨-, -, -, h⟩ | ⟨htb, htr, hn, h⟩ | ⟨htb, ⟨x, htr⟩, h⟩ <;> rw [h]
  · exact switchAfterLock_of_idle htb
  · exact hv
  · intro _ hst
    rw [settle_of_due_none hhold.due] at hst
    rcases transition_locked hx htb hst with ⟨hust, -⟩ | ⟨b, -, hread⟩
    · rw [requestOf_start _ hub huo, hust] at hn
      cases hn
    · simp [htr] at hread
  · intro _ hst
    rw [settle_hold _ _ hhold.due (by simpa using hhold.st htb)] at hst
    rcases transition_locked hx htb (st_of_skipEmpty_locked hst) with ⟨-, hsame⟩ | ⟨b, hb, hread⟩
    · simp [htr] at hsame
    · refine ⟨.read t.cfg.devAddr t.cfg.lockAddr (some b), by simp [hread, hl.cfg], ?_⟩
      exact (lockedRead_iff _ _).mpr ⟨b, by simpa [hl.cfg] using hb, rfl⟩

/-- Landing keeps `OP`. -/
theorem land_op {v : State} (hb : v.busy = true) (heff : BusyEffect (settle v) t) (hl : SameLatches (settle v) t) :
    (land v (settle v) t).op = v.op := by
  have ht : t.op = v.op := by simpa using hl.op
  rcases land_cases v (by simpa using hb) heff with ⟨-, h⟩ | ⟨-, -, -, h⟩ | ⟨-, -, -, h⟩ | ⟨-, -, h⟩ <;> rw [h]
  all_goals simp [ht]

/-- An accepted command is a START at T1, or no START. -/
theorem exec_opInstr_idle_switchAfterLock {op : BitVec 3} {l r : F32} {m : Bool} (hb : s.busy = false)
    (hd : s.due = none) (hx : exec (opInstr op l r m) s = .next t) : t.SwitchAfterLock := by
  rw [exec_opInstr_idle s op l r m hb] at hx
  cases hx
  split
  · intro _ hst
    rw [settle_of_due_none (by simpa using hd)] at hst
    cases hst
  · next ho =>
    split
    · exact switchAfterLock_of_idle rfl
    · split
      · exact switchAfterLock_of_idle rfl
      · exact switchAfterLock_of_not_start (State.inStart_of_op_ne ho)

theorem step_switchAfterLock (hs : s.SwitchAfterLock) (h : step s = .next t) : t.SwitchAfterLock := by
  have hv := hs.after_intake
  obtain ⟨-, ⟨-, rfl⟩ | ⟨-, u, rfl, ⟨hb, ho, t0, hx, rfl⟩ | ⟨hb, ho, -, rfl⟩ | ⟨hb, ho, -, rfl⟩ | ⟨hb, -, rfl⟩ |
    ⟨hb, w, rest, -, hx⟩⟩⟩ := step_next_cases s h
  · exact switchAfterLock_of_idle rfl
  · exact switchAfterLock_land hv (by simpa using hb) (by simpa using ho) hx
  · have hquiet : BusyEffect (settle (intake s)) (settle (intake s)) := .quiet rfl rfl rfl rfl (.inl rfl) rfl
    have hop := land_op (by simpa using hb) hquiet ⟨rfl, rfl, rfl, rfl, rfl, rfl, rfl⟩
    exact switchAfterLock_of_not_start (State.inStart_of_op_ne (hop ▸ by simpa using ho))
  · obtain ⟨heff, hl⟩ := gainBody_effect _ hb ho
    have hop := land_op (by simpa using hb) heff hl
    exact switchAfterLock_of_not_start (State.inStart_of_op_ne (hop ▸ by simpa using ho))
  · exact switchAfterLock_of_idle hb
  · rcases hx with ⟨-, rfl⟩ | ⟨-, hx⟩
    · exact switchAfterLock_of_idle rfl
    · exact exec_opInstr_idle_switchAfterLock (by exact hb) (by exact settle_due (intake s)) hx

/-- Settles O51: `step_switchAfterLock`, and the transaction of a step (`step_oneTransaction`) is T4's, which stands
behind the locked read that `SwitchAfterLock` gives. -/
theorem clockSwitchFollowsLock : Obligations.ClockSwitchFollowsLock := by
  intro s t hs h
  refine ⟨step_switchAfterLock hs h, fun hstart hst _ hne => ?_⟩
  obtain ⟨-, htrace | ⟨-, r, x, hreq, hx, htrace⟩, -, -⟩ := step_oneTransaction h
  · exact absurd htrace hne
  obtain ⟨hb, ho⟩ := State.inStart_iff.mp hstart
  rw [nextRequest_intake, nextRequest, requestOf_start _ (by simpa using hb) (by simpa using ho), hst] at hreq
  cases hreq
  obtain ⟨ok, rfl⟩ := hx
  obtain ⟨y, hlast, hy⟩ := hs hstart hst
  obtain ⟨b, hb, rfl⟩ := (lockedRead_iff _ _).mp hy
  obtain ⟨pre, hpre⟩ := List.getLast?_eq_some_iff.mp hlast
  exact ⟨pre, b, ok, by simpa [Config.lockTest] using hb, by simp [htrace, hpre]⟩

end Sys2Proof.Machine
end

section
/-! SUPPORT. The trace that R172 prescribes, transaction by transaction, and the bytes a START reads (for O57). -/

namespace Sys2Proof.Machine

variable {cfg : Config} {polls reads : List Byte} {b : Byte} {n : Nat} {mv : GainMove}

/-! ### The right side of a channel follows its left side (R145, R166) -/

/-- The move before one that carries the right side alone is of the same channel. -/
def GainMove.Follows (mv next : GainMove) : Prop := next.carry = .right → mv.ch = next.ch

/-- The first move of a list of SET_GAINs carries the left side. -/
theorem head_gainMoves_carry (cfg : Config) (cs : List Channel) :
    ∀ mv ∈ (cs.flatMap (gainMoves cfg)).head?, mv.carry ≠ .right := by
  cases cs with
  | nil => simp
  | cons c cs =>
    by_cases ha : cfg.regAddr c .left = cfg.regAddr c .right
    · simp [gainMoves_of_shared ha]
    · simp [gainMoves_of_separate ha]

theorem isChain_gainMoves (cfg : Config) (c : Channel) : (gainMoves cfg c).IsChain GainMove.Follows := by
  by_cases ha : cfg.regAddr c .left = cfg.regAddr c .right
  · simp [gainMoves_of_shared ha]
  · simp [gainMoves_of_separate ha, GainMove.Follows]

theorem isChain_flatMap_gainMoves (cfg : Config) (cs : List Channel) :
    (cs.flatMap (gainMoves cfg)).IsChain GainMove.Follows := by
  induction cs with
  | nil => simp
  | cons c cs ih =>
    exact (isChain_gainMoves cfg c).append ih fun x _ y hy hright => absurd hright (head_gainMoves_carry cfg cs y hy)

theorem defaultMoves_ch {k : Nat} {next : GainMove} (hmv : (defaultMoves cfg)[k]? = some mv)
    (hnext : (defaultMoves cfg)[k + 1]? = some next) (hright : next.carry = .right) : mv.ch = next.ch := by
  obtain ⟨hk, rfl⟩ := List.getElem?_eq_some_iff.mp hmv
  obtain ⟨hk', rfl⟩ := List.getElem?_eq_some_iff.mp hnext
  exact (isChain_flatMap_gainMoves cfg _).getElem k hk' hright

theorem defaultMoves_zero_carry (hmv : (defaultMoves cfg)[0]? = some mv) : mv.carry ≠ .right :=
  head_gainMoves_carry cfg _ mv (by rwa [List.head?_eq_getElem?])

theorem defaultMoves_length_le (cfg : Config) : (defaultMoves cfg).length ≤ 8 := by
  have h := gainMoves_length cfg
  simp only [defaultMoves, List.flatMap_cons, List.flatMap_nil, List.length_append, List.length_nil]
  have h1 := h .lineIn
  have h2 := h .auxIn
  have h3 := h .lineOut
  have h4 := h .hpOut
  omega

/-! ### The prescribed trace, transaction by transaction (R172) -/

theorem take_succ_of_getElem? {α : Type} {l : List α} {x : α} (h : l[n]? = some x) :
    l.take (n + 1) = l.take n ++ [x] := by
  rw [List.take_add_one, h]
  rfl

theorem bringUpTrace_pll {k : RegisterCommand} (hk : cfg.pllCommands.entries[n]? = some k) :
    bringUpTrace cfg polls b reads (n + 1) .clockSourceDefault =
      bringUpTrace cfg polls b reads n .clockSourceDefault ++
        [.write cfg.devAddr (encodeFrame k.addr k.payload) true] := by
  have hentry : (pllEntries cfg)[n]? = some (.write cfg.devAddr (encodeFrame k.addr k.payload) true) := by
    simp [pllEntries, hk]
  simp [bringUpTrace, take_succ_of_getElem? hentry]

/-- T2 complete: nothing polled yet. -/
theorem bringUpTrace_pll_complete (hn : cfg.pllCommands.entries.length ≤ n) (m : Nat) :
    bringUpTrace cfg polls b reads n .clockSourceDefault = bringUpTrace cfg [] b reads m .pllConfiguring := by
  have hall : (pllEntries cfg).take n = pllEntries cfg := List.take_of_length_le (by simpa [pllEntries] using hn)
  simp [bringUpTrace, hall, pollEntries]

theorem bringUpTrace_poll (p : Byte) (m : Nat) :
    bringUpTrace cfg (polls ++ [p]) b reads m .pllConfiguring =
      bringUpTrace cfg polls b reads n .pllConfiguring ++ [.read cfg.devAddr cfg.lockAddr (some p)] := by
  simp [bringUpTrace, pollEntries]

/-- The locked read completes T3; `b` stood for any byte before. -/
theorem bringUpTrace_locked (p : Byte) (m : Nat) :
    bringUpTrace cfg polls p reads m .pllLocked =
      bringUpTrace cfg polls b reads n .pllConfiguring ++ [.read cfg.devAddr cfg.lockAddr (some p)] := by
  simp [bringUpTrace, pollEntries]

theorem bringUpTrace_clkselPll :
    bringUpTrace cfg polls b reads 0 .clockSourcePll =
      bringUpTrace cfg polls b reads n .pllLocked ++ [clkselEntry cfg cfg.clkselPll] := by
  simp [bringUpTrace]

theorem bringUpTrace_board {row : Row} (hrow : cfg.boardTable.entries[n]? = some row) :
    bringUpTrace cfg polls b reads (n + 1) .clockSourcePll =
      bringUpTrace cfg polls b reads n .clockSourcePll ++
        [.write cfg.devAddr (encodeFrame row.addr [row.value]) true] := by
  have hentry : (tableEntries cfg cfg.boardTable.entries)[n]? =
      some (.write cfg.devAddr (encodeFrame row.addr [row.value]) true) := by
    simp [tableEntries, hrow]
  simp [bringUpTrace, take_succ_of_getElem? hentry]

theorem bringUpTrace_board_complete (hn : cfg.boardTable.entries.length ≤ n) :
    bringUpTrace cfg polls b reads n .clockSourcePll = bringUpTrace cfg polls b reads 0 .boardConfiguring := by
  have hall : (tableEntries cfg cfg.boardTable.entries).take n = tableEntries cfg cfg.boardTable.entries :=
    List.take_of_length_le (by simpa [tableEntries] using hn)
  simp [bringUpTrace, hall]

theorem bringUpTrace_gain (hmv : (defaultMoves cfg)[n / 2]? = some mv) {r : Byte} (hr : reads[n / 2]? = some r) :
    bringUpTrace cfg polls b reads (n + 1) .boardConfiguring =
      bringUpTrace cfg polls b reads n .boardConfiguring ++ [moveEntry cfg (.fin 0) (.fin 0) false n mv r] := by
  simp [bringUpTrace, take_succ_of_getElem? (moveEntries_getElem? hmv hr)]

theorem bringUpTrace_gain_complete (hlen : reads.length = (defaultMoves cfg).length)
    (hn : 2 * (defaultMoves cfg).length ≤ n) (m : Nat) :
    bringUpTrace cfg polls b reads n .boardConfiguring = bringUpTrace cfg polls b reads m .ready := by
  have hall : (moveEntries cfg (.fin 0) (.fin 0) false (defaultMoves cfg) reads).take n =
      moveEntries cfg (.fin 0) (.fin 0) false (defaultMoves cfg) reads :=
    List.take_of_length_le (by rw [moveEntries_length hlen]; omega)
  simp [bringUpTrace, hall]

/-- The transactions before a move do not depend on the byte its read returns. -/
theorem bringUpTrace_set_read (hn : n % 2 = 0) (r : Byte) :
    bringUpTrace cfg polls b (reads.set (n / 2) r) n .boardConfiguring =
      bringUpTrace cfg polls b reads n .boardConfiguring := by
  have hsame : (moveEntries cfg (.fin 0) (.fin 0) false (defaultMoves cfg) (reads.set (n / 2) r)).take n =
      (moveEntries cfg (.fin 0) (.fin 0) false (defaultMoves cfg) reads).take n := by
    refine List.ext_getElem? fun i => ?_
    rw [List.getElem?_take, List.getElem?_take]
    split
    · next hi =>
      have hne : n / 2 ≠ i / 2 := by omega
      simp only [moveEntries, getElem?_flatMap_pair, List.zip, List.getElem?_zipWith,
        List.getElem?_set_ne hne]
    · rfl
  simp [bringUpTrace, hsame]

/-! ### The bytes a START reads (R172 items 3 and 6) -/

theorem ReadsOk.length_reads (h : ReadsOk cfg polls b reads) : reads.length = (defaultMoves cfg).length := by
  obtain ⟨-, -, -, hreads⟩ := h
  exact hreads

theorem ReadsOk.no_polls (h : ReadsOk cfg polls b reads) : ReadsOk cfg [] b reads := by
  obtain ⟨-, hb, hlen, hreads⟩ := h
  exact ⟨by simp, hb, Nat.zero_lt_of_lt hlen, hreads⟩

theorem ReadsOk.poll (h : ReadsOk cfg polls b reads) {p : Byte} (hp : cfg.lockTest p = false)
    (hlen : polls.length + 1 < cfg.pollMax) : ReadsOk cfg (polls ++ [p]) b reads := by
  obtain ⟨hpolls, hb, -, hreads⟩ := h
  exact ⟨by simpa [or_imp, forall_and] using ⟨hpolls, hp⟩, hb, by simpa using hlen, hreads⟩

theorem ReadsOk.lock (h : ReadsOk cfg polls b reads) {p : Byte} (hp : cfg.lockTest p = true) :
    ReadsOk cfg polls p reads := by
  obtain ⟨hpolls, -, hlen, hreads⟩ := h
  exact ⟨hpolls, hp, hlen, hreads⟩

theorem ReadsOk.set_read (h : ReadsOk cfg polls b reads) (k : Nat) (r : Byte) :
    ReadsOk cfg polls b (reads.set k r) := by
  obtain ⟨hpolls, hb, hlen, hreads⟩ := h
  exact ⟨hpolls, hb, hlen, by simpa using hreads⟩

theorem exists_readsOk (hw : cfg.wellFormed = true) : ∃ b reads, ReadsOk cfg [] b reads := by
  obtain ⟨-, hpoll, -⟩ := (Config.wellFormed_iff cfg).mp hw
  exact ⟨cfg.lockMask, List.replicate (defaultMoves cfg).length 0, by simp, by simp [Config.lockTest], hpoll, by simp⟩

theorem Config.counts_lt (hw : cfg.wellFormed = true) :
    cfg.pollMax < 2 ^ 16 ∧ cfg.pllCommands.entries.length < 2 ^ 16 ∧ cfg.boardTable.entries.length < 2 ^ 16 := by
  obtain ⟨-, -, -, -, -, -, -, -, -, -, hcounts⟩ := (Config.wellFormed_iff cfg).mp hw
  exact (Config.countsOk_iff cfg).mp hcounts

end Sys2Proof.Machine
end

section
/-! SUPPORT. A START in progress keeps the trace that R172 prescribes, or ends it there (O57; R160 to R167, R172). -/

namespace Sys2Proof.Machine

variable {s u t v : State} {base : List TraceEntry} {polls reads : List Byte} {b : Byte} {mv : GainMove}

/-! ### States on plan -/

/-- What the working registers hold for the next transaction of T6: the byte read, and the codes of the channel. -/
def State.GainsReady (reads : List Byte) (s : State) : Prop :=
  ∀ mv, (defaultMoves s.cfg)[s.pos.toNat / 2]? = some mv →
    (s.pos.toNat % 2 = 1 → reads[s.pos.toNat / 2]? = some s.tmp) ∧
    (s.pos.toNat % 2 = 1 ∨ mv.carry = .right →
      s.lcode = s.cfg.codeByte mv.ch (.fin 0) ∧ s.rcode = s.cfg.codeByte mv.ch (.fin 0))

/-- A transition that begins is on plan when the transitions before it are done. -/
theorem onPlan_goto {target : SeqState} (hr : ReadsOk v.cfg polls b reads)
    (ht : v.trace = base ++ bringUpTrace v.cfg polls b reads 0 target)
    (hp : target = .pllConfiguring → polls = []) : (goto target v).OnPlan base := by
  have hpos : (goto target v).pos = 0 := rfl
  refine ⟨polls, b, reads, hr, by rw [hpos]; exact ht, fun hst => ?_, fun _ mv hmv => ?_⟩
  · rw [hp hst]
    rfl
  · rw [hpos] at hmv ⊢
    exact ⟨fun h => absurd h (by decide), fun h => absurd (h.resolve_left (by decide)) (defaultMoves_zero_carry hmv)⟩

/-- Done with the entry actions, the position is `IDX`. -/
theorem State.pos_of_entered (h : s.entered = true) : s.pos = s.idx := by simp [State.pos, h]

/-- The position after a transaction of a list shorter than `2^16`. -/
theorem pos_succ (hv : v.entered = true) (hidx : v.idx = u.pos + 1) (hlt : u.pos.toNat + 1 < 2 ^ 16) :
    v.pos.toNat = u.pos.toNat + 1 := by
  rw [State.pos_of_entered hv, hidx, BitVec.toNat_add]
  exact Nat.mod_eq_of_lt hlt

/-- In a transition whose position is nothing but an index into a list, the trace says it all. -/
theorem onPlan_of_trace (hr : ReadsOk v.cfg polls b reads)
    (ht : v.trace = base ++ bringUpTrace v.cfg polls b reads v.pos.toNat v.st) (hp : v.st ≠ .pllConfiguring)
    (hg : v.st ≠ .boardConfiguring) : v.OnPlan base :=
  ⟨polls, b, reads, hr, ht, fun h => absurd h hp, fun h => absurd h hg⟩

/-- What O57 claims of executing a transition of a START in `u`: the transaction is not answered; the START goes on, on
plan; it ends with `OK` after the whole trace; or it ends with an error, for one of three causes. -/
inductive PlanStep (base : List TraceEntry) (u t : State) : Prop
  | waits (request : (requestOf u).isSome = true) (busy : t.busy = true) (trace : t.trace = u.trace)
  | goesOn (busy : t.busy = true) (plan : t.OnPlan base)
  | finished (busy : t.busy = false) (kind : t.errKind = .ok) (st : t.st = .ready)
      (trace : ∃ polls b reads, ReadsOk u.cfg polls b reads ∧
        t.trace = base ++ bringUpTrace u.cfg polls b reads 0 .ready)
  | stopped (busy : t.busy = false) (failed : t.failed = true) (st : t.st = u.st)
      (cause : (t.errKind = .err .busError ∧ ∃ x, x.isFail = true ∧ t.trace = u.trace ++ [x]) ∨
        (t.errKind = .err .boardError ∧ t.trace = u.trace ∧ u.pos = 0 ∧
          (t.st = .clockSourceDefault ∨ t.st = .clockSourcePll)) ∨
        (t.errKind = .err .pllLockTimeout ∧ t.st = .pllConfiguring ∧ u.pos.toNat + 1 = u.cfg.pollMax ∧
          ∃ b, u.cfg.lockTest b = false ∧ t.trace = u.trace ++ [.read u.cfg.devAddr u.cfg.lockAddr (some b)]))

/-- A write that failed ends the START (R212). -/
theorem planStep_writeFailed (pll : Bool) (bytes : List Byte) (e : Env) (i : BitVec 16) (hst : v.st = u.st)
    (ht : v.trace = u.trace) : PlanStep base u (raise true .busError i (wrote pll bytes false e v)) :=
  .stopped rfl (by simp) hst (.inl ⟨rfl, .write v.cfg.devAddr bytes false, rfl, by simp [ht]⟩)

/-- A read that failed ends the START (R212). -/
theorem planStep_readFailed (a : Addr) (e : Env) (i : BitVec 16) (hst : v.st = u.st) (ht : v.trace = u.trace) :
    PlanStep base u (raise true .busError i (gotRead a none e v)) :=
  .stopped rfl (by simp) hst (.inl ⟨rfl, .read v.cfg.devAddr a none, rfl, by simp [ht]⟩)

/-- A board hook that answers `BoardError` ends the START before the first transaction of T2 or T5 (R213). -/
theorem planStep_boardError (hst : u.st = .clockSourceDefault ∨ u.st = .clockSourcePll) (hpos : u.pos = 0) :
    PlanStep base u (raise true .boardError 0 (enter u)) :=
  .stopped rfl (by simp) (by simp) (.inr (.inl ⟨rfl, by simp, hpos, by simpa using hst⟩))

/-- The transition after this one begins. -/
theorem planStep_goto {target : SeqState} (hb : v.busy = true) (hr : ReadsOk v.cfg polls b reads)
    (ht : v.trace = base ++ bringUpTrace v.cfg polls b reads 0 target)
    (hp : target = .pllConfiguring → polls = []) : PlanStep base u (goto target v) :=
  .goesOn hb (onPlan_goto hr ht hp)

theorem planStep_enter (hb : u.busy = true) (hn : (requestOf u).isSome = true) : PlanStep base u (enter u) :=
  .waits hn (by simpa using hb) (by simp)

/-! ### T1 and T4: a clock-source write (R161, R164) -/

theorem clkselStep_planStep (byte : Byte) (target : SeqState) (hb : u.busy = true)
    (hn : (requestOf u).isSome = true) (hr : ReadsOk u.cfg polls b reads)
    (ht : u.trace ++ [clkselEntry u.cfg byte] = base ++ bringUpTrace u.cfg polls b reads 0 target)
    (hp : target ≠ .pllConfiguring) : PlanStep base u (clkselStep byte target (enter u)) := by
  rcases clkselStep_cases (enter u) byte target with h | ⟨e, -, h⟩ | ⟨e, -, h⟩ <;> rw [h]
  · exact planStep_enter hb hn
  · exact planStep_writeFailed _ _ _ _ (by simp) (by simp)
  · refine planStep_goto (by simpa using hb) (by simpa using hr) ?_ fun h => absurd h hp
    simpa [clkselEntry, encodeFrame] using ht

theorem execT1_planStep (hb : u.busy = true) (ho : u.op = 0#3) (hst : u.st = .reset) (hplan : u.OnPlan base)
    (hx : execT1 u = .next t) : PlanStep base u t := by
  obtain ⟨polls, b, reads, hr, htr, -, -⟩ := hplan
  cases hx
  refine clkselStep_planStep _ _ hb (by simp [requestOf_start u hb ho, hst]) hr ?_ (by decide)
  simp [htr, hst, bringUpTrace]

theorem execT4_planStep (hb : u.busy = true) (ho : u.op = 0#3) (hst : u.st = .pllLocked) (hplan : u.OnPlan base)
    (hx : execT4 u = .next t) : PlanStep base u t := by
  obtain ⟨polls, b, reads, hr, htr, -, -⟩ := hplan
  cases hx
  refine clkselStep_planStep _ _ hb (by simp [requestOf_start u hb ho, hst]) hr ?_ (by decide)
  rw [htr, hst, bringUpTrace_clkselPll, List.append_assoc]

/-! ### T2 and T5: the writes of a list (R162, R165) -/

/-- In a plan with no transaction the position is 0 (R35). -/
theorem State.BlockInv.pos_of_empty_plan (h : u.BlockInv) (hb : u.busy = true) (hl : u.planLength = 0) :
    u.pos = 0 := by
  cases hent : u.entered with
  | false => simp [State.pos, hent]
  | true =>
    have := h.idxBound hb fun _ => hent
    omega

/-- An answered write of a list of `len`, after which the transition `u.st` goes on or the one to `target` begins. -/
theorem listWrite_planStep {bytes : List Byte} {len : Nat} {target : SeqState} (pll : Bool) (e : Env)
    (hb : u.busy = true) (hlen : len < 2 ^ 16) (hr : ReadsOk u.cfg polls b reads)
    (ht : u.trace ++ [.write u.cfg.devAddr bytes true] =
      base ++ bringUpTrace u.cfg polls b reads (u.pos.toNat + 1) u.st)
    (hdone : len ≤ u.pos.toNat + 1 →
      bringUpTrace u.cfg polls b reads (u.pos.toNat + 1) u.st = bringUpTrace u.cfg polls b reads 0 target)
    (hp : target = .pllConfiguring → polls = []) (hst : u.st = .clockSourceDefault ∨ u.st = .clockSourcePll) :
    PlanStep base u
      (if len ≤ (enter u).idx.toNat + 1 then
        goto target { wrote pll bytes true e (enter u) with idx := (enter u).idx + 1 }
      else { wrote pll bytes true e (enter u) with idx := (enter u).idx + 1 }) := by
  rw [enter_idx_eq_pos]
  split
  · next hl =>
    refine planStep_goto (by simpa using hb) (by simpa using hr) ?_ hp
    simpa [← hdone hl] using ht
  · next hl =>
    have hpos := pos_succ (v := { wrote pll bytes true e (enter u) with idx := u.pos + 1 }) (enter_entered u) rfl
      (by omega)
    refine .goesOn (by simpa using hb) (onPlan_of_trace (by simpa using hr) ?_ ?_ ?_)
    · rw [hpos]
      simpa using ht
    · rcases hst with hst | hst <;> simp [hst]
    · rcases hst with hst | hst <;> simp [hst]

theorem execT2_planStep (hw : u.cfg.wellFormed = true) (hinv : u.BlockInv) (hb : u.busy = true) (ho : u.op = 0#3)
    (hst : u.st = .clockSourceDefault) (hplan : u.OnPlan base) (hx : execT2 u = .next t) : PlanStep base u t := by
  obtain ⟨polls, b, reads, hr, htr, -, -⟩ := hplan
  rw [hst] at htr
  have hn := requestOf_start u hb ho
  simp only [hst, enter_idx_eq_pos] at hn
  rcases execT2_cases u with ⟨hc, h⟩ | ⟨cmds, hc, ⟨hk, h⟩ | ⟨k, hk, ⟨-, h⟩ | ⟨-, h | ⟨e, -, h⟩ | ⟨e, -, h⟩⟩⟩⟩ <;>
    rw [h] at hx <;> cases hx
  case inl =>
    exact planStep_boardError (.inl hst) (hinv.pos_of_empty_plan hb
      (by simp [State.planLength, ho, hst, hc, HookResult.entries]))
  all_goals
    have hcmds : u.cfg.pllCommands.entries = cmds := by rw [hc]; rfl
    rw [enter_idx_eq_pos] at hk
  case inr.inl =>
    refine planStep_goto (polls := []) (by simpa using hb) (by simpa using hr.no_polls) ?_ fun _ => rfl
    rw [enter_trace, htr, bringUpTrace_pll_complete (by simpa [hcmds] using hk) 0, enter_cfg]
  case inr.inr.inr.inl => exact planStep_enter hb (by simp [hn, hcmds, hk])
  case inr.inr.inr.inr.inl => exact planStep_writeFailed _ _ _ _ (by simp) (by simp)
  case inr.inr.inr.inr.inr =>
    obtain ⟨-, hlen, -⟩ := Config.counts_lt hw
    rw [hcmds] at hlen
    refine listWrite_planStep (polls := []) true e hb hlen hr.no_polls ?_ (fun hl => ?_) (fun _ => rfl) (.inl hst)
    · rw [hst, bringUpTrace_pll (by rw [hcmds, hk]), htr, List.append_assoc]
      rfl
    · rw [hst, bringUpTrace_pll_complete (by rwa [hcmds]) 0]

theorem execT5_planStep (hw : u.cfg.wellFormed = true) (hinv : u.BlockInv) (hb : u.busy = true) (ho : u.op = 0#3)
    (hst : u.st = .clockSourcePll) (hplan : u.OnPlan base) (hx : execT5 u = .next t) : PlanStep base u t := by
  obtain ⟨polls, b, reads, hr, htr, -, -⟩ := hplan
  rw [hst] at htr
  have hn := requestOf_start u hb ho
  simp only [hst, enter_idx_eq_pos] at hn
  rcases execT5_cases u with ⟨hc, h⟩ | ⟨rows, hc, ⟨hk, h⟩ | ⟨row, hk, h⟩ | ⟨row, e, hk, ⟨-, h⟩ | ⟨-, h⟩⟩⟩ <;>
    rw [h] at hx <;> cases hx
  case inl =>
    exact planStep_boardError (.inr hst) (hinv.pos_of_empty_plan hb
      (by simp [State.planLength, ho, hst, hc, HookResult.entries]))
  all_goals
    have hrows : u.cfg.boardTable.entries = rows := by rw [hc]; rfl
    rw [enter_idx_eq_pos] at hk
  case inr.inl =>
    refine planStep_goto (by simpa using hb) (by simpa using hr) ?_ (fun h => by cases h)
    rw [enter_trace, htr, bringUpTrace_board_complete (by simpa [hrows] using hk), enter_cfg]
  case inr.inr.inl => exact planStep_enter hb (by simp [hn, hrows, hk])
  case inr.inr.inr.inl => exact planStep_writeFailed _ _ _ _ (by simp) (by simp)
  case inr.inr.inr.inr =>
    obtain ⟨-, -, hlen⟩ := Config.counts_lt hw
    rw [hrows] at hlen
    refine listWrite_planStep false e hb hlen hr ?_ (fun hl => ?_) (fun h => by cases h) (.inr hst)
    · rw [hst, bringUpTrace_board (by rw [hrows, hk]), htr, List.append_assoc]
    · rw [hst, bringUpTrace_board_complete (by rwa [hrows])]

/-! ### T3: the lock-status reads (R163, R222) -/

/-- Before a read of T3 `POLL_CNT` counts as `IDX` does, and is below `POLL_MAX` (R34). -/
theorem State.BlockInv.poll_pos (h : u.BlockInv) (hw : u.cfg.wellFormed = true) (hs : u.inStart = true)
    (hst : u.st = .pllConfiguring) : (enterPoll u).pollCnt = u.pos ∧ u.pos.toNat < u.cfg.pollMax := by
  rw [enterPoll_pollCnt]
  cases hent : u.entered with
  | false =>
    obtain ⟨-, hpoll, -⟩ := (Config.wellFormed_iff u.cfg).mp hw
    exact ⟨by simp [State.pos, hent], by simpa [State.pos, hent] using Nat.lt_of_succ_le hpoll⟩
  | true =>
    obtain ⟨hcnt, hlt⟩ := h.pollBound hs hst hent
    rw [State.pos_of_entered hent, ← hcnt]
    exact ⟨rfl, hlt⟩

theorem execT3_planStep (hw : u.cfg.wellFormed = true) (hinv : u.BlockInv) (hb : u.busy = true) (ho : u.op = 0#3)
    (hst : u.st = .pllConfiguring) (hplan : u.OnPlan base) (hx : execT3 u = .next t) : PlanStep base u t := by
  obtain ⟨polls, b, reads, hr, htr, hpolls, -⟩ := hplan
  rw [hst] at htr
  obtain ⟨hcnt, hlt⟩ := hinv.poll_pos hw (State.inStart_iff.mpr ⟨hb, ho⟩) hst
  obtain ⟨hmax, -, -⟩ := Config.counts_lt hw
  have hsucc : (u.pos + 1).toNat = u.pos.toNat + 1 := by bv_omega
  rcases execT3_cases u with h | ⟨e, -, h⟩ | ⟨p, e, -, hl, h⟩ | ⟨p, e, -, hl, h⟩ <;> rw [h] at hx <;> cases hx
  · exact .waits (by simp [requestOf_start u hb ho, hst]) (by simpa using hb) (by simp)
  · exact planStep_readFailed _ _ _ (by simp) (by simp)
  · refine planStep_goto (by simpa using hb) (by simpa using hr.lock hl) ?_ (fun h => by cases h)
    simp [htr, bringUpTrace_locked (b := b) (n := u.pos.toNat) p 0]
  · rw [hcnt, hsucc]
    split
    · next htimeout =>
      exact .stopped rfl (by simp) (by simp) (.inr (.inr ⟨rfl, by simp [hst], htimeout, p, hl, by simp⟩))
    · next hmore =>
      have hlen := hpolls hst
      have hpos := pos_succ (v := { gotRead u.cfg.lockAddr (some p) e (enterPoll u) with
        idx := (enterPoll u).idx + 1, pollCnt := u.pos + 1 }) (enterPoll_entered u)
        (congrArg (· + 1) (enterPoll_idx u)) (by omega)
      refine .goesOn (by simpa using hb) ⟨polls ++ [p], b, reads, ?_, ?_, fun _ => ?_, fun h => ?_⟩
      · simpa using hr.poll hl (by omega)
      · simp [hst, htr, bringUpTrace_poll (n := u.pos.toNat) p]
      · rw [hpos, List.length_append, hlen]
        rfl
      · simp [hst] at h

/-! ### T6: the default gains (R166) -/

/-- A read of T6 is followed by the write-back of its move, which finds the byte read and the codes. -/
theorem gainRead_onPlan {r : Byte} (hr : ReadsOk u.cfg polls b reads)
    (htr : u.trace = base ++ bringUpTrace u.cfg polls b reads u.pos.toNat .boardConfiguring)
    (hmv : (defaultMoves u.cfg)[u.pos.toNat / 2]? = some mv) (heven : u.pos.toNat % 2 = 0)
    (hcfg : v.cfg = u.cfg) (hst : v.st = .boardConfiguring)
    (hv : v.trace = u.trace ++ [.read u.cfg.devAddr (mv.addr u.cfg) (some r)]) (hpos : v.pos.toNat = u.pos.toNat + 1)
    (htmp : v.tmp = r) (hcodes : v.lcode = u.cfg.codeByte mv.ch (.fin 0) ∧ v.rcode = u.cfg.codeByte mv.ch (.fin 0)) :
    v.OnPlan base := by
  have hhalf : (u.pos.toNat + 1) / 2 = u.pos.toNat / 2 := by omega
  have hread : (reads.set (u.pos.toNat / 2) r)[u.pos.toNat / 2]? = some r := by
    refine List.getElem?_set_self ?_
    rw [hr.length_reads]
    exact (List.getElem?_eq_some_iff.mp hmv).1
  refine ⟨polls, b, reads.set (u.pos.toNat / 2) r, ?_, ?_, fun h => ?_, fun _ mv' hmv' => ?_⟩
  · rw [hcfg]
    exact hr.set_read _ _
  · rw [hv, hpos, hcfg, hst, bringUpTrace_gain hmv hread, bringUpTrace_set_read heven, htr, moveEntry, if_pos heven,
      List.append_assoc]
  · rw [hst] at h
    cases h
  · rw [hcfg, hpos, hhalf] at hmv' ⊢
    obtain rfl : mv = mv' := Option.some.inj (hmv.symm.trans hmv')
    exact ⟨fun _ => by rw [hread, htmp], fun _ => hcodes⟩

/-- The write-back of a move is the one prescribed, by the byte read and the codes. -/
theorem gainWrite_trace
    (htr : u.trace = base ++ bringUpTrace u.cfg polls b reads u.pos.toNat .boardConfiguring)
    (hready : u.GainsReady reads) (hmv : (defaultMoves u.cfg)[u.pos.toNat / 2]? = some mv)
    (hodd : u.pos.toNat % 2 = 1) :
    u.trace ++ [.write u.cfg.devAddr (moveFrame mv false u) true] =
      base ++ bringUpTrace u.cfg polls b reads (u.pos.toNat + 1) .boardConfiguring := by
  obtain ⟨htmp, hcodes⟩ := hready mv hmv
  obtain ⟨hl, hrc⟩ := hcodes (.inl hodd)
  rw [bringUpTrace_gain hmv (htmp hodd), htr, moveEntry, if_neg (by omega), moveFrame, hl, hrc, List.append_assoc]

/-- A write-back of T6 that is not the last is followed by the read of the next move, which finds the codes when it
carries the right side alone. -/
theorem gainWrite_onPlan (hr : ReadsOk u.cfg polls b reads) (hready : u.GainsReady reads)
    (hmv : (defaultMoves u.cfg)[u.pos.toNat / 2]? = some mv) (hodd : u.pos.toNat % 2 = 1)
    (hcfg : v.cfg = u.cfg) (hst : v.st = .boardConfiguring) (hpos : v.pos.toNat = u.pos.toNat + 1)
    (hv : v.trace = base ++ bringUpTrace u.cfg polls b reads (u.pos.toNat + 1) .boardConfiguring)
    (hcodes : v.lcode = u.lcode ∧ v.rcode = u.rcode) : v.OnPlan base := by
  obtain ⟨-, hkept⟩ := hready mv hmv
  have hhalf : (u.pos.toNat + 1) / 2 = u.pos.toNat / 2 + 1 := by omega
  refine ⟨polls, b, reads, by rwa [hcfg], by rw [hv, hpos, hcfg, hst], fun h => ?_, fun _ next hnext => ?_⟩
  · rw [hst] at h
    cases h
  · rw [hpos, hcfg, hhalf] at hnext
    rw [hpos, hcfg, hcodes.1, hcodes.2]
    refine ⟨fun h => by omega, fun h => ?_⟩
    rw [← defaultMoves_ch hmv hnext (h.resolve_left (by omega))]
    exact hkept (.inl hodd)

/-- The read of a move finds the codes of its channel, written by its own entry or by the move before. -/
theorem enterGain_codes (hready : u.GainsReady reads) (hmv : (defaultMoves u.cfg)[u.pos.toNat / 2]? = some mv)
    (heven : u.pos.toNat % 2 = 0) :
    (enterGain u.pos.toNat mv (.fin 0) (.fin 0) (enter u)).lcode = u.cfg.codeByte mv.ch (.fin 0) ∧
      (enterGain u.pos.toNat mv (.fin 0) (.fin 0) (enter u)).rcode = u.cfg.codeByte mv.ch (.fin 0) := by
  obtain ⟨-, hcodes⟩ := hready mv hmv
  rw [enterGain_even heven]
  split
  · next hright => simpa using hcodes (.inr hright)
  · simp

theorem execT6_planStep (hb : u.busy = true) (ho : u.op = 0#3) (hst : u.st = .boardConfiguring)
    (hplan : u.OnPlan base) (hx : execT6 u = .next t) : PlanStep base u t := by
  obtain ⟨polls, b, reads, hr, htr, -, hgains⟩ := hplan
  have hready : u.GainsReady reads := hgains hst
  rw [hst] at htr
  rw [execT6_eq u _ rfl, enter_idx_eq_pos] at hx
  cases hx
  rcases gainStep_cases u.pos.toNat (defaultMoves u.cfg) (.fin 0) (.fin 0) false (enter u) with
    ⟨hmv, h⟩ | ⟨mv, hmv, h | ⟨hp, e, -, h⟩ | ⟨hp, r, e, -, h⟩ | ⟨hp, e, -, h⟩ | ⟨hp, e, -, h⟩⟩ <;> rw [h]
  case inl =>
    have hn : 2 * (defaultMoves u.cfg).length ≤ u.pos.toNat := by
      have := List.getElem?_eq_none_iff.mp hmv
      omega
    refine planStep_goto (by simpa using hb) (by simpa using hr) ?_ (fun h => by cases h)
    rw [enter_trace, htr, bringUpTrace_gain_complete hr.length_reads hn 0, enter_cfg]
  case inr.inl =>
    refine .waits ?_ (by simpa using hb) (by simp)
    simp only [requestOf_start u hb ho, hst, enter_idx_eq_pos]
    exact gainRequest_isSome _ _ _ _ (by simp [hmv])
  case inr.inr.inl => exact planStep_readFailed _ _ _ (by simp) (by simp)
  case inr.inr.inr.inr.inl => exact planStep_writeFailed _ _ _ _ (by simp) (by simp)
  all_goals
    have hlt : u.pos.toNat + 1 < 2 ^ 16 := by
      have := lt_of_gainMove hmv
      have := defaultMoves_length_le u.cfg
      omega
  case inr.inr.inr.inl =>
    refine .goesOn (by simpa using hb) (gainRead_onPlan hr htr hmv hp (by simp) (by simpa using hst) (by simp)
      (pos_succ (by simp) (by simp [State.pos]) hlt) rfl ?_)
    simpa using enterGain_codes hready hmv hp
  case inr.inr.inr.inr.inr =>
    have htrace := gainWrite_trace htr hready hmv hp
    have hframe : moveFrame mv false (enter u) = moveFrame mv false u := by simp [moveFrame]
    by_cases hl : 2 * (defaultMoves u.cfg).length ≤ u.pos.toNat + 1
    · rw [if_pos hl, hframe]
      refine planStep_goto (by simpa using hb) (by simpa using hr) ?_ (fun h => by cases h)
      simpa [bringUpTrace_gain_complete hr.length_reads hl 0] using htrace
    · rw [if_neg hl, hframe]
      exact .goesOn (by simpa using hb) (gainWrite_onPlan hr hready hmv hp (by simp) (by simpa using hst)
        (pos_succ (by simp) (by simp [State.pos]) hlt) (by simpa using htrace) ⟨by simp, by simp⟩)

/-! ### A step of a START -/

/-- Executing the transition of a START on plan, by its state (R160 to R167). -/
theorem transition_planStep (hw : u.cfg.wellFormed = true) (hinv : u.BlockInv) (hb : u.busy = true) (ho : u.op = 0#3)
    (hplan : u.OnPlan base) (hx : exec (transitionOf u.st) u = .next t) : PlanStep base u t := by
  cases hst : u.st <;> rw [hst] at hx
  case reset => exact execT1_planStep hb ho hst hplan hx
  case clockSourceDefault => exact execT2_planStep hw hinv hb ho hst hplan hx
  case pllConfiguring => exact execT3_planStep hw hinv hb ho hst hplan hx
  case pllLocked => exact execT4_planStep hb ho hst hplan hx
  case clockSourcePll => exact execT5_planStep hw hinv hb ho hst hplan hx
  case boardConfiguring => exact execT6_planStep hb ho hst hplan hx
  case ready =>
    obtain ⟨polls, b, reads, hr, htr, -, -⟩ := hplan
    cases hx
    exact .finished rfl rfl hst ⟨polls, b, reads, hr, by rw [ret_trace, htr, hst]; rfl⟩

/-- A transition without a transaction leaves the START on plan at the one after it (R162, R165). -/
theorem onPlan_skipEmpty (h : t.OnPlan base) : (skipEmpty t).OnPlan base := by
  rcases skipEmpty_cases t with hskip | ⟨hst, hc, hskip⟩ | ⟨hst, hc, hskip⟩ <;> rw [hskip]
  · exact h
  · obtain ⟨polls, b, reads, hr, htr, -, -⟩ := h
    refine onPlan_goto (polls := []) (by simpa using hr.no_polls) ?_ fun _ => rfl
    rw [enter_trace, htr, hst, bringUpTrace_pll_complete (by simp [hc, HookResult.entries]) 0, enter_cfg]
  · obtain ⟨polls, b, reads, hr, htr, -, -⟩ := h
    refine onPlan_goto (by simpa using hr) ?_ (fun h => by cases h)
    rw [enter_trace, htr, hst, bringUpTrace_board_complete (by simp [hc, HookResult.entries]), enter_cfg]

/-- What other agents do does not take a START off its plan. -/
theorem onPlan_settle_intake (h : (settle s).OnPlan base) : (settle (intake s)).OnPlan base := by
  rw [settle_intake]
  exact h

/-- A START that goes on lands on plan: with what is due done, or waiting where it was (R14). -/
theorem onPlan_land {v : State} (hb : v.busy = true) (ho : v.op = 0#3) (hplan : (settle v).OnPlan base)
    (hx : exec (transitionOf (settle v).st) (settle v) = .next t) (htb : t.busy = true)
    (ht : t.OnPlan base ∨ (t.trace = (settle v).trace ∧ (requestOf (settle v)).isSome = true)) :
    (land v (settle v) t).inStart = true ∧ (settle (land v (settle v) t)).OnPlan base := by
  have hub : (settle v).busy = true := by simpa using hb
  have huo : (settle v).op = 0#3 := by simpa using ho
  obtain ⟨heff, hl⟩ := transition_effect _ _ hub huo hx
  have hhold := holdable_transition hub huo (settle_due v) hx
  have hstart : t.inStart = true := State.inStart_iff.mpr ⟨htb, hl.op.trans huo⟩
  rcases ht with ht | ⟨htr, hn⟩
  · rcases land_cases v hub heff with ⟨hidle, -⟩ | ⟨-, -, -, h⟩ | ⟨-, -, -, h⟩ | ⟨-, -, h⟩
    · exact absurd (hidle.symm.trans htb) (by decide)
    · rw [h]
      exact ⟨State.inStart_iff.mpr ⟨hb, ho⟩, hplan⟩
    · rw [h, settle_of_due_none hhold.due]
      exact ⟨hstart, ht⟩
    · rw [h, settle_hold _ _ hhold.due (.inl hstart)]
      exact ⟨hstart, onPlan_skipEmpty ht⟩
  · rw [land_waits v _ t hub htb hn htr]
    exact ⟨State.inStart_iff.mpr ⟨hb, ho⟩, hplan⟩

/-- A step of a START runs the transition of its settled state (R96). -/
theorem step_of_start (hs : s.inStart = true) (hr : rstHigh s = false) (h : step s = .next t) :
    s.cfg.wellFormed = true ∧ ∃ t0, exec (transitionOf (settle (intake s)).st) (settle (intake s)) = .next t0 ∧
      t = land (intake s) (settle (intake s)) t0 := by
  obtain ⟨hb, ho⟩ := State.inStart_iff.mp hs
  have hub : (settle (intake s)).busy = true := by simpa using hb
  have huo : (settle (intake s)).op = 0#3 := by simpa using ho
  obtain ⟨hw, ⟨hrst, -⟩ | ⟨-, u, rfl, ⟨-, -, hx⟩ | ⟨-, hne, -⟩ | ⟨-, hne, -⟩ | ⟨hidle, -⟩ | ⟨hidle, -⟩⟩⟩ :=
    step_next_cases s h
  · exact absurd (hr.symm.trans hrst) (by decide)
  · exact ⟨hw, hx⟩
  · exact absurd huo hne
  · exact absurd huo hne
  · exact absurd (hidle.symm.trans hub) (by decide)
  · exact absurd (hidle.symm.trans hub) (by decide)

/-- The acceptance of a START begins the plan at T1 (R160). -/
theorem exec_start_onPlan (hw : s.cfg.wellFormed = true) (hb : s.busy = false) (l r : F32) (m : Bool) :
    ∃ t, exec (.start l r m) s = .next t ∧ t.OnPlan s.trace := by
  obtain ⟨b, reads, hr⟩ := exists_readsOk hw
  refine ⟨_, exec_opInstr_idle s 0#3 l r m hb, ?_⟩
  rw [if_pos rfl]
  exact onPlan_goto (by simpa using hr) (by simp [bringUpTrace]) (fun h => by cases h)

/-- Settles O57: `exec_start_onPlan`, and `transition_planStep` landed. -/
theorem bringUpFollowsPlan : Obligations.BringUpFollowsPlan := by
  refine ⟨fun s l r m hw hb => exec_start_onPlan hw hb l r m, fun base s t hinv hstart hplan hr h => ?_⟩
  obtain ⟨hb, ho⟩ := State.inStart_iff.mp hstart
  obtain ⟨hw, t0, hx, rfl⟩ := step_of_start hstart hr h
  have huplan := onPlan_settle_intake hplan
  have hust : (settle (intake s)).st = (settle s).st := by rw [settle_intake]
  have hupos : (settle (intake s)).pos = (settle s).pos := by rw [settle_intake]; rfl
  have goesOn := onPlan_land (by simpa using hb) (by simpa using ho) huplan hx
  cases transition_planStep (by simpa using hw) hinv.after_intake.settled (by simpa using hb)
    (by simpa using ho) huplan hx with
  | waits request busy trace => exact .inl (goesOn busy (.inr ⟨trace, request⟩))
  | goesOn busy plan => exact .inl (goesOn busy (.inl plan))
  | finished busy kind st trace =>
    rw [land_ended _ _ _ busy]
    exact .inr (.inl ⟨busy, kind, st, by simpa using trace⟩)
  | stopped busy failed st cause =>
    rw [land_ended _ _ _ busy]
    exact .inr (.inr ⟨busy, failed, st.trans hust, by simpa [hupos] using cause⟩)

end Sys2Proof.Machine
end

section
/-! SUPPORT. The transitions of the sequencer as instructions: the state each leaves by the answer to its transaction,
and the codec registers it leaves alone (O38 to O43; R161 to R167). -/

namespace Sys2Proof.Machine

variable {s t : State} {e : Env} {b : Byte} {mv : GainMove}

/-! ### The end of a START, and the entry actions, written out -/

theorem raise_eq_ended (f : Bool) (k : ErrKind) (i : BitVec 16) (s : State) :
    raise f k i s = s.ended (.err k) i (s.failed || f) := rfl

/-- An error of a START sets `FAILED` whatever it holds (R216). -/
theorem raise_true_eq_ended (k : ErrKind) (i : BitVec 16) (s : State) : raise true k i s = s.ended (.err k) i true := by
  rw [raise_eq_ended, Bool.or_true]

theorem ret_eq_ended (s : State) : ret s = s.ended .ok 0 s.failed := rfl

/-- The entry actions leave `IDX` at the position (R35; log 4). -/
theorem enter_eq (s : State) : enter s = { s with idx := s.pos, entered := true } := by
  unfold enter State.pos
  split
  · next h => rw [← h]
  · rfl

/-- The entry actions of T3 (R34, R163). -/
theorem enterPoll_eq (s : State) :
    enterPoll s = { s with idx := s.pos, pollCnt := if s.entered then s.pollCnt else 0, entered := true } := by
  unfold enterPoll State.pos
  split
  · next h => rw [← h]
  · rfl

/-- A PLL write touches the registers of its payload only, as any write does (log 7, log 8, log 33). -/
theorem sameOutside_of_answerWrite_pll {a : Addr} {p : List Byte} {ok : Bool} (pll : Bool)
    (h : s.answerWrite (encodeFrame a p) = some (ok, e)) (ht : t.env = e.noteWrite s.cfg pll a p) :
    SameOutside a p.length s t := by
  intro x hx
  have hsame := sameOutside_of_answerWrite (t := { s with env := e.noteWrite s.cfg false a p }) h rfl x hx
  rw [ht, Env.noteWrite_peek, ← hsame, Env.noteWrite_peek]

/-! ### T1 and T4 (R161, R164) -/

section ClockSource

variable {v : Byte} {target : SeqState}

theorem clkselStep_ok (h : s.answerWrite (encodeFrame s.cfg.clkselAddr [v]) = some (true, e)) :
    clkselStep v target s = { s with
      st := target, idx := s.idx + 1, entered := false, env := e.noteWrite s.cfg false s.cfg.clkselAddr [v],
      trace := s.trace ++ [.write s.cfg.devAddr (encodeFrame s.cfg.clkselAddr [v]) true] } := by
  simp only [clkselStep, send_ok _ _ _ h, wrote_encodeFrame]
  rfl

theorem clkselStep_fail (h : s.answerWrite (encodeFrame s.cfg.clkselAddr [v]) = some (false, e)) :
    clkselStep v target s = State.ended { s with
      env := e.noteWrite s.cfg false s.cfg.clkselAddr [v],
      trace := s.trace ++ [.write s.cfg.devAddr (encodeFrame s.cfg.clkselAddr [v]) false] }
        (.err .busError) s.idx true := by
  simp only [clkselStep, send_fail _ _ _ h, wrote_encodeFrame, raise_true_eq_ended]

theorem clkselStep_sameOutside (v : Byte) (target : SeqState) (s : State) :
    SameOutside s.cfg.clkselAddr 1 s (clkselStep v target s) := by
  rcases clkselStep_cases s v target with h | ⟨e, ha, h⟩ | ⟨e, ha, h⟩ <;> rw [h]
  · exact sameOutside_of_env_eq rfl _ _
  · exact sameOutside_of_answerWrite ha (by simp)
  · exact sameOutside_of_answerWrite ha (by simp)

/-- Settles O38: T1 and T4 are `clkselStep` after the entry actions, which leave `IDX` at 0. -/
theorem clockSourceWrites : Obligations.ClockSourceWrites := by
  intro s i v target hi hidx frame
  have hexec : exec i s = .next (clkselStep v target (enter s)) := by
    simp only [List.mem_cons, Prod.mk.injEq, List.not_mem_nil, or_false] at hi
    rcases hi with ⟨rfl, rfl, rfl⟩ | ⟨rfl, rfl, rfl⟩ <;> rfl
  have hpos : s.pos = 0 := by
    unfold State.pos
    split
    · next h => exact hidx h
    · rfl
  have henter : enter s = { s with idx := 0, entered := true } := by rw [enter_eq, hpos]
  rw [hexec]
  refine ⟨fun e h => ?_, fun e h => ?_, fun t ht => ?_⟩
  · rw [clkselStep_ok (by rw [enter_answerWrite, enter_cfg]; exact h), henter]
    rfl
  · rw [clkselStep_fail (by rw [enter_answerWrite, enter_cfg]; exact h), henter]
    rfl
  · cases ht
    simpa [SameOutside] using clkselStep_sameOutside v target (enter s)

end ClockSource

/-! ### T2 (R162) -/

section Pll

variable {cmds : List RegisterCommand} {k : RegisterCommand}

theorem execT2_boardError (hc : s.cfg.pllCommands = .boardError) :
    execT2 s = .next (raise true .boardError 0 (enter s)) := by simp only [execT2, hc]

theorem execT2_end (hc : s.cfg.pllCommands = .ok cmds) (hl : cmds.length ≤ s.pos.toNat) :
    execT2 s = .next (goto .pllConfiguring (enter s)) := by
  simp only [execT2, hc, enter_idx_eq_pos, List.getElem?_eq_none hl]

theorem execT2_ok (hc : s.cfg.pllCommands = .ok cmds) (hk : cmds[s.pos.toNat]? = some k)
    (hp : k.payload ≠ []) (h : (enter s).answerWrite (encodeFrame k.addr k.payload) = some (true, e)) :
    execT2 s = .next
      (if cmds.length ≤ s.pos.toNat + 1 then
        goto .pllConfiguring
          { wrote true (encodeFrame k.addr k.payload) true e (enter s) with idx := (enter s).idx + 1 }
      else { wrote true (encodeFrame k.addr k.payload) true e (enter s) with idx := (enter s).idx + 1 }) := by
  have he : k.payload.isEmpty = false := by simp [hp]
  simp only [execT2, hc, enter_idx_eq_pos, hk, he, send_ok true _ _ h, Bool.false_eq_true, if_false]

theorem execT2_fail (hc : s.cfg.pllCommands = .ok cmds) (hk : cmds[s.pos.toNat]? = some k) (hp : k.payload ≠ [])
    (h : (enter s).answerWrite (encodeFrame k.addr k.payload) = some (false, e)) :
    execT2 s = .next (raise true .busError s.pos (wrote true (encodeFrame k.addr k.payload) false e (enter s))) := by
  have he : k.payload.isEmpty = false := by simp [hp]
  simp only [execT2, hc, enter_idx_eq_pos, hk, he, send_fail true _ _ h, Bool.false_eq_true, if_false, wrote_idx]

theorem execT2_sameOutside (hc : s.cfg.pllCommands = .ok cmds) (hk : cmds[s.pos.toNat]? = some k)
    (hx : execT2 s = .next t) : SameOutside k.addr k.payload.length s t := by
  rcases execT2_cases s with ⟨hc', -⟩ | ⟨cmds', hc', hcase⟩
  · simp [hc] at hc'
  obtain rfl : cmds = cmds' := by simpa [hc] using hc'
  rw [enter_idx_eq_pos] at hcase
  rcases hcase with ⟨hk', -⟩ | ⟨k', hk', hcase⟩
  · simp [hk] at hk'
  obtain rfl : k = k' := by simpa [hk] using hk'
  rcases hcase with ⟨-, h⟩ | ⟨-, h | ⟨e, ha, h⟩ | ⟨e, ha, h⟩⟩ <;> rw [h] at hx <;> cases hx
  · exact sameOutside_of_env_eq (enter_env s) _ _
  · exact sameOutside_of_answerWrite_pll true (by simpa using ha) (by simp)
  · refine sameOutside_of_answerWrite_pll true (by simpa using ha) ?_
    split <;> simp

/-- Settles O39, by what the board gives, and by the answer to the write of the command at the position. -/
theorem pllConfigurationWrites : Obligations.PllConfigurationWrites := by
  intro s u
  have hu : enter s = u := enter_eq s
  refine ⟨fun hc => ?_, fun cmds hc => ⟨fun hl => ?_, fun k hk hp => ⟨fun e h => ?_, fun e h => ?_, fun t ht => ?_⟩⟩⟩
  · exact (execT2_boardError hc).trans (by rw [hu, raise_true_eq_ended])
  · exact (execT2_end hc hl).trans (by rw [hu]; rfl)
  · refine (execT2_ok hc hk hp (by simpa using h)).trans ?_
    rw [hu, wrote_encodeFrame]
    rfl
  · refine (execT2_fail hc hk hp (by simpa using h)).trans ?_
    rw [hu, wrote_encodeFrame, raise_true_eq_ended]
  · exact execT2_sameOutside hc hk ht

end Pll

/-! ### T3 (R163, R222) -/

theorem lockTest_iff (cfg : Config) (b : Byte) : cfg.lockTest b = true ↔ b &&& cfg.lockMask = cfg.lockMask := by
  simp [Config.lockTest]

theorem execT3_sameCodec (hx : execT3 s = .next t) : SameCodec s t := by
  rcases execT3_cases s with h | ⟨e, ha, h⟩ | ⟨b, e, ha, -, h⟩ | ⟨b, e, ha, -, h⟩ <;> rw [h] at hx <;> cases hx
  · exact fun x => by rw [enterPoll_env]
  · exact sameCodec_of_answerRead (by simpa using ha) (by simp)
  · exact sameCodec_of_answerRead (by simpa using ha) (by simp)
  · refine sameCodec_of_answerRead (by simpa using ha) ?_
    split <;> simp

theorem execT3_fail (h : (enterPoll s).answerRead s.cfg.lockAddr = some (none, e)) :
    execT3 s = .next (raise true .busError (enterPoll s).pollCnt (gotRead s.cfg.lockAddr none e (enterPoll s))) := by
  simp only [execT3, readReg_fail _ h, gotRead_pollCnt]

theorem execT3_ok (h : (enterPoll s).answerRead s.cfg.lockAddr = some (some b, e)) :
    execT3 s = .next
      (if s.cfg.lockTest b = true then
        goto .pllLocked { gotRead s.cfg.lockAddr (some b) e (enterPoll s) with idx := (enterPoll s).idx + 1 }
      else if ((enterPoll s).pollCnt + 1).toNat = s.cfg.pollMax then
        raise true .pllLockTimeout (BitVec.ofNat 16 s.cfg.pollMax)
          { gotRead s.cfg.lockAddr (some b) e (enterPoll s) with
            idx := (enterPoll s).idx + 1, pollCnt := (enterPoll s).pollCnt + 1 }
      else { gotRead s.cfg.lockAddr (some b) e (enterPoll s) with
        idx := (enterPoll s).idx + 1, pollCnt := (enterPoll s).pollCnt + 1 }) := by
  simp only [execT3, readReg_ok _ b h, gotRead_cfg, enterPoll_cfg, gotRead_pollCnt]
  cases s.cfg.lockTest b <;> rfl

/-- Settles O40, by the answer to the read, the lock test and the count. -/
theorem lockPolling : Obligations.LockPolling := by
  intro s n u
  have hu : enterPoll s = u := enterPoll_eq s
  refine ⟨fun e h => ?_, fun b e h => ⟨fun hl => ?_, fun hl hn => ?_, fun hl hn => ?_⟩, fun t => execT3_sameCodec⟩
  · refine (execT3_fail (by simpa using h)).trans ?_
    rw [hu, raise_true_eq_ended]
    rfl
  all_goals
    refine (execT3_ok (by simpa using h)).trans ?_
    rw [hu]
  · rw [if_pos ((lockTest_iff _ _).mpr hl)]
    rfl
  · rw [if_neg (mt (lockTest_iff _ _).mp hl), if_neg hn]
    rfl
  · rw [if_neg (mt (lockTest_iff _ _).mp hl), if_pos hn, raise_true_eq_ended]
    rfl

/-! ### T5 (R165) -/

section Board

variable {rows : List Row} {row : Row}

theorem execT5_boardError (hc : s.cfg.boardTable = .boardError) :
    execT5 s = .next (raise true .boardError 0 (enter s)) := by simp only [execT5, hc]

theorem execT5_end (hc : s.cfg.boardTable = .ok rows) (hl : rows.length ≤ s.pos.toNat) :
    execT5 s = .next (goto .boardConfiguring (enter s)) := by
  simp only [execT5, hc, enter_idx_eq_pos, sendRow_end _ rows hl]

theorem execT5_ok (hc : s.cfg.boardTable = .ok rows) (hk : rows[s.pos.toNat]? = some row)
    (h : (enter s).answerWrite (encodeFrame row.addr [row.value]) = some (true, e)) :
    execT5 s = .next
      (if rows.length ≤ s.pos.toNat + 1 then
        goto .boardConfiguring
          { wrote false (encodeFrame row.addr [row.value]) true e (enter s) with idx := (enter s).idx + 1 }
      else { wrote false (encodeFrame row.addr [row.value]) true e (enter s) with idx := (enter s).idx + 1 }) := by
  simp only [execT5, hc, enter_idx_eq_pos, sendRow_ok _ rows row hk h]
  by_cases hl : rows.length ≤ s.pos.toNat + 1
  · simp only [if_pos hl]
  · simp only [if_neg hl]

theorem execT5_fail (hc : s.cfg.boardTable = .ok rows) (hk : rows[s.pos.toNat]? = some row)
    (h : (enter s).answerWrite (encodeFrame row.addr [row.value]) = some (false, e)) :
    execT5 s = .next
      (raise true .busError s.pos (wrote false (encodeFrame row.addr [row.value]) false e (enter s))) := by
  simp only [execT5, hc, enter_idx_eq_pos, sendRow_fail _ rows row hk h, wrote_idx]

theorem execT5_sameOutside (hc : s.cfg.boardTable = .ok rows) (hk : rows[s.pos.toNat]? = some row)
    (hx : execT5 s = .next t) : SameOutside row.addr 1 s t := by
  rcases execT5_cases s with ⟨hc', -⟩ | ⟨rows', hc', hcase⟩
  · simp [hc] at hc'
  obtain rfl : rows = rows' := by simpa [hc] using hc'
  rw [enter_idx_eq_pos, hk] at hcase
  rcases hcase with ⟨hk', -⟩ | ⟨row', -, h⟩ | ⟨row', e, hk', ⟨ha, h⟩ | ⟨ha, h⟩⟩
  · cases hk'
  all_goals rw [h] at hx; cases hx
  · exact sameOutside_of_env_eq (enter_env s) _ _
  all_goals
    obtain rfl : row = row' := Option.some.inj hk'
    rw [enter_answerWrite] at ha
  · exact sameOutside_of_answerWrite ha (by simp)
  · refine sameOutside_of_answerWrite ha ?_
    split <;> simp

/-- Settles O41, by what the board gives, and by the answer to the write of the row at the position. -/
theorem boardTableReplay : Obligations.BoardTableReplay := by
  intro s u
  have hu : enter s = u := enter_eq s
  refine ⟨fun hc => ?_, fun rows hc => ⟨fun hl => ?_, fun row hk => ⟨fun e h => ?_, fun e h => ?_, fun t ht => ?_⟩⟩⟩
  · exact (execT5_boardError hc).trans (by rw [hu, raise_true_eq_ended])
  · exact (execT5_end hc hl).trans (by rw [hu]; rfl)
  · refine (execT5_ok hc hk (by simpa using h)).trans ?_
    rw [hu, wrote_encodeFrame]
    rfl
  · refine (execT5_fail hc hk (by simpa using h)).trans ?_
    rw [hu, wrote_encodeFrame, raise_true_eq_ended]
  · exact execT5_sameOutside hc hk ht

end Board

/-! ### T6 (R166) -/

theorem defaultMoves_eq (cfg : Config) : defaultMoves cfg =
    gainMoves cfg .lineIn ++ gainMoves cfg .auxIn ++ gainMoves cfg .lineOut ++ gainMoves cfg .hpOut := by
  simp [defaultMoves]

/-- What T6 leaves of the environment is what its transaction leaves. -/
theorem execT6_env {x : State × Progress} (hx : execT6 s = .next t)
    (h : gainStep (enter s).idx.toNat (defaultMoves s.cfg) (.fin 0) (.fin 0) false (enter s) = x) :
    t.env = x.1.env := by
  rw [execT6_eq s x h] at hx
  cases hx
  split <;> rfl

section Gains

variable (hmv : (defaultMoves s.cfg)[s.pos.toNat / 2]? = some mv)
include hmv

/-- T6 at its current move is an RMW of that move, after the entry of SET_GAIN. -/
theorem execT6_at {x : State × Progress}
    (hx : rmw s.pos.toNat (mv.addr s.cfg)
      (mv.fn (enterGain s.pos.toNat mv (.fin 0) (.fin 0) (enter s)).lcode
        (enterGain s.pos.toNat mv (.fin 0) (.fin 0) (enter s)).rcode false)
      (enterGain s.pos.toNat mv (.fin 0) (.fin 0) (enter s)) = x) :
    gainStep (enter s).idx.toNat (defaultMoves s.cfg) (.fin 0) (.fin 0) false (enter s) =
      (x.1, if x.2 = .done then (if 2 * (defaultMoves s.cfg).length ≤ s.pos.toNat + 1 then .done else .more)
        else x.2) := by
  rw [enter_idx_eq_pos]
  exact gainStep_of_rmw hmv (by simpa using hx)

theorem execT6_read_ok (hp : s.pos.toNat % 2 = 0) (h : s.answerRead (mv.addr s.cfg) = some (some b, e)) :
    execT6 s = .next { enterGain s.pos.toNat mv (.fin 0) (.fin 0) (enter s) with
      tmp := b, idx := s.pos + 1, env := e.noteRead s.cfg (mv.addr s.cfg) (some b),
      trace := s.trace ++ [.read s.cfg.devAddr (mv.addr s.cfg) (some b)] } := by
  rw [execT6_eq s _ (execT6_at hmv (rmw_read_ok hp (by simpa using h)))]
  simp [gotRead, State.pos]

theorem execT6_read_fail (hp : s.pos.toNat % 2 = 0) (h : s.answerRead (mv.addr s.cfg) = some (none, e)) :
    execT6 s = .next (State.ended { enterGain s.pos.toNat mv (.fin 0) (.fin 0) (enter s) with
      env := e, trace := s.trace ++ [.read s.cfg.devAddr (mv.addr s.cfg) none] } (.err .busError) s.pos true) := by
  rw [execT6_eq s _ (execT6_at hmv (rmw_read_fail hp (by simpa using h)))]
  simp [gotRead, Env.noteRead, State.pos, raise_true_eq_ended]

/-- `execT6_at` for a write-back, which no entry comes before. -/
theorem execT6_at_odd (hp : s.pos.toNat % 2 = 1) {x : State × Progress}
    (hx : rmw s.pos.toNat (mv.addr s.cfg) (mv.fn s.lcode s.rcode false) (enter s) = x) :
    gainStep (enter s).idx.toNat (defaultMoves s.cfg) (.fin 0) (.fin 0) false (enter s) =
      (x.1, if x.2 = .done then (if 2 * (defaultMoves s.cfg).length ≤ s.pos.toNat + 1 then .done else .more)
        else x.2) :=
  execT6_at hmv (by rw [enterGain_odd _ _ _ _ hp, enter_lcode, enter_rcode, hx])

theorem execT6_write_ok {w : Byte} (hp : s.pos.toNat % 2 = 1) (hw : (mv.fn s.lcode s.rcode false).apply s.cfg s.tmp = w)
    (h : s.answerWrite (encodeFrame (mv.addr s.cfg) [w]) = some (true, e)) :
    execT6 s = .next
      (if 2 * (defaultMoves s.cfg).length ≤ s.pos.toNat + 1 then
        goto .ready { wrote false (encodeFrame (mv.addr s.cfg) [w]) true e (enter s) with idx := s.pos + 1 }
      else { wrote false (encodeFrame (mv.addr s.cfg) [w]) true e (enter s) with idx := s.pos + 1 }) := by
  subst hw
  rw [execT6_eq s _ (execT6_at_odd hmv hp (rmw_write_ok hp (by simpa using h))), enter_idx_eq_pos, enter_cfg, enter_tmp]
  by_cases hl : 2 * (defaultMoves s.cfg).length ≤ s.pos.toNat + 1 <;> simp only [hl, if_true, if_false]

theorem execT6_write_fail {w : Byte} (hp : s.pos.toNat % 2 = 1)
    (hw : (mv.fn s.lcode s.rcode false).apply s.cfg s.tmp = w)
    (h : s.answerWrite (encodeFrame (mv.addr s.cfg) [w]) = some (false, e)) :
    execT6 s = .next
      (raise true .busError s.pos (wrote false (encodeFrame (mv.addr s.cfg) [w]) false e (enter s))) := by
  subst hw
  rw [execT6_eq s _ (execT6_at_odd hmv hp (rmw_write_fail hp (by simpa using h)))]
  simp [State.pos]

theorem execT6_sameCodec (hp : s.pos.toNat % 2 = 0) (hx : execT6 s = .next t) : SameCodec s t := by
  intro x
  rw [execT6_env hx (execT6_at hmv rfl), rmw_sameCodec hp _ _ _ x, enterGain_env, enter_env]

theorem execT6_sameOutside (hp : s.pos.toNat % 2 = 1) (hx : execT6 s = .next t) :
    SameOutside (mv.addr s.cfg) 1 s t := by
  intro x hout
  rw [execT6_env hx (execT6_at hmv rfl), rmw_sameOutside hp _ _ _ x (by simpa using hout), enterGain_env, enter_env]

end Gains

/-- Settles O42: the transaction of the move that the position selects, by its answer. -/
theorem defaultGains : Obligations.DefaultGains := by
  intro s mv moves hmv a u z q w
  have hmoves : defaultMoves s.cfg = moves := defaultMoves_eq s.cfg
  have hu : enter s = u := enter_eq s
  have hq (hp : s.pos.toNat % 2 = 0) : enterGain s.pos.toNat mv z z (enter s) = q := by rw [enterGain_even hp, hu]
  rw [← hmoves] at hmv ⊢
  refine ⟨fun hp => ⟨fun b e h => ?_, fun e h => ?_, fun t => execT6_sameCodec hmv hp⟩,
    fun hp => ⟨fun e h => ?_, fun e h => ?_, fun t => execT6_sameOutside hmv hp⟩⟩
  · exact (execT6_read_ok hmv hp h).trans (by rw [hq hp])
  · exact (execT6_read_fail hmv hp h).trans (by rw [hq hp])
  · refine (execT6_write_ok hmv hp rfl h).trans ?_
    rw [hu, wrote_encodeFrame]
    rfl
  · refine (execT6_write_fail hmv hp rfl h).trans ?_
    rw [hu, wrote_encodeFrame, raise_true_eq_ended]

/-! ### READY (R167) -/

/-- Settles O43: `ret`, and a START in progress has not failed (`State.BlockInv.startClean`). -/
theorem readyEndsStart : Obligations.ReadyEndsStart := by
  refine fun s => ⟨congrArg Host.Outcome.next (ret_eq_ended s), fun hinv hb ho => ?_⟩
  rw [← hinv.now.startClean hb ho, ← ret_eq_ended]
  rfl

end Sys2Proof.Machine
end

section
/-! SUPPORT. The Codec Facade takes up a word: the acceptance of START and of the gain commands (O31, O32; R160, R190,
R191), and the command port and the latches of a step (O35). -/

namespace Sys2Proof.Machine

variable {s t u v : State} {op : BitVec 3} {l r : F32} {m : Bool}

/-! ### START (R160, R169) -/

/-- The first START since the codec's own reset, and any START on the mock bus, changes no codec register. -/
theorem Env.noteStart_peek_of_fresh {e : Env} (h : e.isMock = true ∨ e.codecFresh = true) (x : Nat) :
    e.noteStart.peek x = e.peek x := by
  have hstart : e.noteStart = { e with codecFresh := false } := by
    unfold Env.noteStart
    split
    · rfl
    · next hm => rw [if_pos (h.resolve_left hm)]
  rw [hstart]
  rfl

/-- A repeated START leaves no codec register known (U3; log 11). -/
theorem Env.noteStart_peek_of_repeated {e : Env} (hm : e.isMock = false) (hf : e.codecFresh = false) (x : Nat) :
    e.noteStart.peek x = none := by
  have hregs : e.noteStart.regs = [] := by simp [Env.noteStart, hm, hf]
  have hmock : e.noteStart.isMock = false := (Env.isMock_congr (by simp [Env.noteStart, hm, hf])).trans hm
  simp [Env.peek, hregs, hmock]

theorem execStart_of_idle (hb : s.busy = false) (l r : F32) (m : Bool) :
    execStart l r m s = .next (goto .reset { s.latch 0 l r m with failed := false, env := s.env.noteStart }) :=
  if_neg (by simp [hb])

/-- Settles O31: `execStart_of_idle`, and what `Env.noteStart` leaves of the codec. -/
theorem startAccepted : Obligations.StartAccepted := fun _ l r m hb =>
  ⟨execStart_of_idle hb l r m, Env.noteStart_peek_of_fresh, Env.noteStart_peek_of_repeated⟩

/-! ### The gain commands (R190 to R197) -/

/-- A gain command of a `Ready` idle block passes the legality check and the readiness check (R191). -/
theorem exec_gain_accepted (l r : F32) (m : Bool) (hb : s.busy = false) (hst : s.st = .ready) (h0 : op ≠ 0#3)
    (h5 : op.toNat ≤ 5) (hu : s.cfg.inUse (channelOf op) = true) :
    exec (opInstr op l r m) s = .next { s.latch op l r m with idx := 0 } := by
  have hlegal : ¬ (5 < op.toNat ∨ s.cfg.inUse (channelOf op) = false) := by simp [h5, hu]
  rw [exec_opInstr_idle s op l r m hb, if_neg h0, if_neg hlegal, if_neg (not_not.mpr hst)]

/-- Settles O32: `exec_gain_accepted` for the opcodes 1 to 5, whose channels are in use, `MIC_IN` with `HAS_MIC`. -/
theorem gainCommandsAccepted : Obligations.GainCommandsAccepted := fun _ l r m hb hst =>
  ⟨exec_gain_accepted (op := 1) l r m hb hst (by decide) (by decide) rfl,
    exec_gain_accepted (op := 2) l r m hb hst (by decide) (by decide) rfl,
    fun hmic => exec_gain_accepted (op := 3) l r m hb hst (by decide) (by decide) hmic,
    exec_gain_accepted (op := 4) l r m hb hst (by decide) (by decide) rfl,
    exec_gain_accepted (op := 5) l r m hb hst (by decide) (by decide) rfl⟩

/-! ### The command port and the latches (R190) -/

/-- What the command port and the latches hold. -/
structure State.Latched (t : State) (port : List (BitVec 72)) (op : BitVec 3) (l r : F32) (m : Bool) : Prop where
  cmdIn : t.cmdIn = port
  op : t.op = op
  mute : t.mute = m
  leftDb : t.leftDb = l
  rightDb : t.rightDb = r

theorem State.latched_self (s : State) : s.Latched s.cmdIn s.op s.leftDb s.rightDb s.mute := ⟨rfl, rfl, rfl, rfl, rfl⟩

variable {port : List (BitVec 72)}

/-- What an operation in progress does when executed leaves port and latches alone. -/
theorem State.Latched.of_sameLatches (hu : u.Latched port op l r m) (h : SameLatches u t) : t.Latched port op l r m :=
  ⟨h.cmdIn.trans hu.cmdIn, h.op.trans hu.op, h.mute.trans hu.mute, h.leftDb.trans hu.leftDb,
    h.rightDb.trans hu.rightDb⟩

theorem State.Latched.after_intake (h : s.Latched port op l r m) : (intake s).Latched port op l r m :=
  ⟨by simpa using h.cmdIn, by simpa using h.op, by simpa using h.mute, by simpa using h.leftDb,
    by simpa using h.rightDb⟩

theorem State.Latched.after_settle (h : s.Latched port op l r m) : (settle s).Latched port op l r m :=
  ⟨by simpa using h.cmdIn, by simpa using h.op, by simpa using h.mute, by simpa using h.leftDb,
    by simpa using h.rightDb⟩

/-- Landing holds back no write of the port and none of a latch (R14). -/
theorem State.Latched.after_land (hv : v.Latched port op l r m) (hb : v.busy = true) (heff : BusyEffect (settle v) t)
    (ht : t.Latched port op l r m) : (land v (settle v) t).Latched port op l r m := by
  rcases land_cases v (by simpa using hb) heff with ⟨-, hl⟩ | ⟨-, -, -, hl⟩ | ⟨-, -, -, hl⟩ | ⟨-, -, hl⟩ <;> rw [hl]
  · exact ht
  · exact hv
  · exact ht
  · exact ⟨ht.cmdIn, ht.op, ht.mute, ht.leftDb, ht.rightDb⟩

theorem latched_acceptIllegal (op : BitVec 3) (l r : F32) (m : Bool) (s : State) :
    (acceptIllegal op l r m s).Latched s.cmdIn op l r m := ⟨rfl, rfl, rfl, rfl, rfl⟩

/-- Acceptance latches the operands, whether the command is then taken up or answered (R190, R191). -/
theorem latched_of_exec_idle (hb : s.busy = false) (hx : exec (opInstr op l r m) s = .next t) :
    t.Latched s.cmdIn op l r m := by
  rw [exec_opInstr_idle s op l r m hb] at hx
  cases hx
  split
  · next h0 => exact ⟨rfl, h0.symm, rfl, rfl, rfl⟩
  · split
    · exact latched_acceptIllegal op l r m s
    · split <;> exact ⟨rfl, rfl, rfl, rfl, rfl⟩

/-- A busy block takes no word and keeps its latches. -/
theorem step_latched_of_busy (h : step s = .next t) (hr : rstHigh s = false) (hb : s.busy = true) :
    t.Latched s.cmdIn s.op s.leftDb s.rightDb s.mute := by
  have hvb : (intake s).busy = true := by simpa using hb
  have hv := s.latched_self.after_intake
  obtain ⟨-, ⟨hrst, -⟩ | ⟨-, u, rfl, ⟨-, t0, heff, hsame, rfl⟩ | ⟨-, -, rfl⟩ | ⟨hidle, -⟩ | ⟨hidle, -⟩⟩⟩ := step_effect h
  · exact absurd (hr.symm.trans hrst) (by decide)
  · exact hv.after_land hvb heff (hv.after_settle.of_sameLatches hsame)
  · exact hv.after_land hvb (.quiet rfl rfl rfl rfl (.inl rfl) rfl) hv.after_settle
  all_goals exact absurd (hb.symm.trans hidle) (by decide)

/-- An idle block takes the word on the port and latches its fields, also those of a word with `RSV` set (R89). -/
theorem step_latched_of_word {w : BitVec 72} {rest : List (BitVec 72)} (h : step s = .next t) (hr : rstHigh s = false)
    (hb : s.busy = false) (hc : s.cmdIn = w :: rest) :
    t.Latched rest (cmdOp w) (cmdLeft w) (cmdRight w) (cmdMute w) := by
  have hidle : s.busy ≠ true := by simp [hb]
  obtain ⟨-, ⟨hrst, -⟩ | ⟨-, u, rfl, ⟨hbusy, -⟩ | ⟨hbusy, -⟩ | ⟨-, hnone, -⟩ | ⟨-, w', rest', hc', hx⟩⟩⟩ := step_effect h
  · exact absurd (hr.symm.trans hrst) (by decide)
  · exact absurd hbusy hidle
  · exact absurd hbusy hidle
  · simp [hc] at hnone
  · obtain ⟨rfl, rfl⟩ : w = w' ∧ rest = rest' := by simpa [hc] using hc'
    rcases hx with ⟨-, rfl⟩ | ⟨-, hx⟩
    · exact latched_acceptIllegal ..
    · exact latched_of_exec_idle (s := { settle (intake s) with cmdIn := rest }) (by simpa using hb) hx

/-- Settles O35: `step_latched_of_busy` and `step_latched_of_word`. -/
theorem commandsHeldWhileBusy : Obligations.CommandsHeldWhileBusy := by
  intro s t h hr
  refine ⟨fun hb => ?_, fun w rest hb hc => ?_⟩
  · obtain ⟨hport, hop, hmute, hleft, hright⟩ := step_latched_of_busy h hr hb
    exact ⟨hport, hop, hmute, hleft, hright⟩
  · obtain ⟨hport, hop, hmute, hleft, hright⟩ := step_latched_of_word h hr hb hc
    exact ⟨hport, hop, hmute, hleft, hright⟩

end Sys2Proof.Machine
end

section
/-! SUPPORT. One transaction of a gain command in progress (O36; R192, R145). -/

namespace Sys2Proof.Machine

variable {s t : State} {c : Channel} {mv : GainMove} {b : Byte} {e : Env}

/-- A legal gain command in progress does its current transaction (R192). -/
theorem exec_gain_busy (hb : s.busy = true) (h0 : s.op ≠ 0#3) (h5 : s.op.toNat ≤ 5) :
    exec (opInstr s.op s.leftDb s.rightDb s.mute) s = .next (gainBody (channelOf s.op) s) := by
  rw [exec_opInstr_busy s hb h0, if_neg (not_lt.mpr h5)]

/-- What a gain command leaves of the environment is what its transaction leaves. -/
theorem gainBody_env {x : State × Progress}
    (h : gainStep s.idx.toNat (gainMoves s.cfg c) (f32Value s.leftDb) (f32Value s.rightDb) s.mute s = x) :
    (gainBody c s).env = x.1.env := by
  rw [gainBody_eq s c x h]
  split <;> rfl

section Transaction

variable (hmv : (gainMoves s.cfg c)[s.idx.toNat / 2]? = some mv)
include hmv

theorem gainBody_read_ok (hp : s.idx.toNat % 2 = 0) (h : s.answerRead (mv.addr s.cfg) = some (some b, e)) :
    gainBody c s = { enterGain s.idx.toNat mv (f32Value s.leftDb) (f32Value s.rightDb) s with
      tmp := b, idx := s.idx + 1, env := e.noteRead s.cfg (mv.addr s.cfg) (some b),
      trace := s.trace ++ [.read s.cfg.devAddr (mv.addr s.cfg) (some b)] } := by
  rw [gainBody_eq s c _ (gainStep_of_rmw hmv (rmw_read_ok hp (by simpa using h)))]
  simp [gotRead]

theorem gainBody_read_fail (hp : s.idx.toNat % 2 = 0) (h : s.answerRead (mv.addr s.cfg) = some (none, e)) :
    gainBody c s = State.ended { enterGain s.idx.toNat mv (f32Value s.leftDb) (f32Value s.rightDb) s with
      env := e, trace := s.trace ++ [.read s.cfg.devAddr (mv.addr s.cfg) none] } (.err .busError) s.idx s.failed := by
  rw [gainBody_eq s c _ (gainStep_of_rmw hmv (rmw_read_fail hp (by simpa using h)))]
  simp [gotRead, Env.noteRead, raise_eq_ended]

theorem gainBody_write_ok {w : Byte} (hp : s.idx.toNat % 2 = 1)
    (hw : (mv.fn s.lcode s.rcode s.mute).apply s.cfg s.tmp = w)
    (h : s.answerWrite (encodeFrame (mv.addr s.cfg) [w]) = some (true, e)) :
    let t : State := { s with
      idx := s.idx + 1, env := e.noteWrite s.cfg false (mv.addr s.cfg) [w],
      trace := s.trace ++ [.write s.cfg.devAddr (encodeFrame (mv.addr s.cfg) [w]) true] }
    gainBody c s = if 2 * (gainMoves s.cfg c).length ≤ s.idx.toNat + 1 then t.ended .ok 0 s.failed else t := by
  subst hw
  rw [gainBody_eq s c _ (gainStep_of_rmw_odd hp hmv (rmw_write_ok hp h)), wrote_encodeFrame]
  by_cases hl : 2 * (gainMoves s.cfg c).length ≤ s.idx.toNat + 1 <;> simp only [hl, if_true, if_false, ret_eq_ended]

theorem gainBody_write_fail {w : Byte} (hp : s.idx.toNat % 2 = 1)
    (hw : (mv.fn s.lcode s.rcode s.mute).apply s.cfg s.tmp = w)
    (h : s.answerWrite (encodeFrame (mv.addr s.cfg) [w]) = some (false, e)) :
    gainBody c s = State.ended { s with
      env := e.noteWrite s.cfg false (mv.addr s.cfg) [w],
      trace := s.trace ++ [.write s.cfg.devAddr (encodeFrame (mv.addr s.cfg) [w]) false] }
        (.err .busError) s.idx s.failed := by
  subst hw
  rw [gainBody_eq s c _ (gainStep_of_rmw_odd hp hmv (rmw_write_fail hp h)), wrote_encodeFrame]
  simp [raise_eq_ended]

theorem gainBody_sameCodec (hp : s.idx.toNat % 2 = 0) : SameCodec s (gainBody c s) := by
  intro x
  rw [gainBody_env (gainStep_of_rmw hmv rfl), rmw_sameCodec hp _ _ _ x, enterGain_env]

theorem gainBody_sameOutside (hp : s.idx.toNat % 2 = 1) : SameOutside (mv.addr s.cfg) 1 s (gainBody c s) := by
  intro x hout
  rw [gainBody_env (gainStep_of_rmw hmv rfl), rmw_sameOutside hp _ _ _ x hout, enterGain_env]

end Transaction

/-- Settles O36: each of the five commands does `gainBody` of its channel, whose transaction is the one of the move that
`IDX` selects, by its answer. -/
theorem gainCommandTransactions : Obligations.GainCommandTransactions := by
  intro s op c i mv hi hb hop hmv a u w
  have hc : mv.ch = c := gainMoves_ch (List.mem_of_getElem? hmv)
  have hexec : exec i s = .next (gainBody c s) := by
    subst hop
    obtain ⟨rfl, h0, h5, rfl⟩ : i = opInstr s.op s.leftDb s.rightDb s.mute ∧ s.op ≠ 0#3 ∧ s.op.toNat ≤ 5 ∧
        c = channelOf s.op := by
      simp only [List.mem_cons, Prod.mk.injEq, List.not_mem_nil, or_false] at hi
      rcases hi with ⟨ho, rfl, rfl⟩ | ⟨ho, rfl, rfl⟩ | ⟨ho, rfl, rfl⟩ | ⟨ho, rfl, rfl⟩ | ⟨ho, rfl, rfl⟩ <;>
        rw [ho] <;> exact ⟨rfl, by decide, by decide, rfl⟩
    exact exec_gain_busy hb h0 h5
  rw [hexec]
  refine ⟨fun hp => ?_, fun hp => ⟨fun e h => ?_, fun e h => ?_, fun t ht => ?_⟩⟩
  · have hentry : enterGain s.idx.toNat mv (f32Value s.leftDb) (f32Value s.rightDb) s = u := by
      rw [enterGain_even hp, hc]
    refine ⟨fun b e h => ?_, fun e h => ?_, fun t ht => ?_⟩
    · rw [gainBody_read_ok hmv hp h, hentry]
    · rw [gainBody_read_fail hmv hp h, hentry]
    · cases ht
      exact gainBody_sameCodec hmv hp
  · exact congrArg _ (gainBody_write_ok hmv hp rfl h)
  · exact congrArg _ (gainBody_write_fail hmv hp rfl h)
  · cases ht
    exact gainBody_sameOutside hmv hp

end Sys2Proof.Machine
end

section
/-! SUPPORT. A whole gain command on a script of answers (O37; R190, R192, R199). -/

namespace Sys2Proof.Machine

variable {s t u v a : State} {base : List TraceEntry} {mv : GainMove} {n : Nat} {b : Byte}
  {reads : List Byte} {rest : List BusAnswer}

/-! ### What a gain command keeps until its end -/

/-- What the transactions of a gain command leave alone (R192). -/
structure SameCommand (u v : State) : Prop where
  latches : SameLatches u v
  st : v.st = u.st
  failed : v.failed = u.failed
  busy : v.busy = u.busy
  responses : v.responses = u.responses
  stimuli : v.env.stimuli = u.env.stimuli

theorem SameLatches.trans (h : SameLatches u v) (h' : SameLatches v t) : SameLatches u t :=
  ⟨h'.due.trans h.due, h'.cfg.trans h.cfg, h'.cmdIn.trans h.cmdIn, h'.op.trans h.op, h'.mute.trans h.mute,
    h'.leftDb.trans h.leftDb, h'.rightDb.trans h.rightDb⟩

theorem sameCommand_refl (u : State) : SameCommand u u :=
  ⟨⟨rfl, rfl, rfl, rfl, rfl, rfl, rfl⟩, rfl, rfl, rfl, rfl, rfl⟩

theorem SameCommand.trans (h : SameCommand u v) (h' : SameCommand v t) : SameCommand u t :=
  ⟨h.latches.trans h'.latches, h'.st.trans h.st, h'.failed.trans h.failed, h'.busy.trans h.busy,
    h'.responses.trans h.responses, h'.stimuli.trans h.stimuli⟩

/-- The end of a gain command: `ST`, `FAILED` and the port stay, and one response is written (R92, R192). -/
theorem SameCommand.answer (h : SameCommand a v) (k : Status) (i : BitVec 16) :
    let t := v.ended k i v.failed
    t.busy = false ∧ t.st = a.st ∧ t.failed = a.failed ∧ t.cmdIn = a.cmdIn ∧
      t.responses = a.responses ++ [i ++ 0#4 ++ BitVec.ofBool a.failed ++ a.st.code ++ 0#5 ++ k.code] := by
  refine ⟨rfl, h.st, h.failed, h.latches.cmdIn, ?_⟩
  rw [← h.st, ← h.failed, ← h.responses]
  rfl

/-! ### How far a gain command has come -/

/-- The trace R145 prescribes for the command in the latches, whose reads return `reads`. -/
def State.commandEntries (u : State) (reads : List Byte) : List TraceEntry :=
  moveEntries u.cfg (f32Value u.leftDb) (f32Value u.rightDb) u.mute (gainMoves u.cfg (channelOf u.op)) reads

/-- The working registers hold the codes of the operands in the latches. -/
def State.CodesReady (u : State) : Prop :=
  u.lcode = u.cfg.codeByte (channelOf u.op) (f32Value u.leftDb) ∧
    u.rcode = u.cfg.codeByte (channelOf u.op) (f32Value u.rightDb)

/-- The trace of the gain command in progress, since its acceptance at trace `base`, is the one R145 prescribes up to
`IDX`, and the working registers hold what its next transaction needs. -/
structure State.OnCommand (base : List TraceEntry) (reads : List Byte) (u : State) : Prop where
  trace : u.trace = base ++ (u.commandEntries reads).take u.idx.toNat
  codes : 0 < u.idx.toNat → u.CodesReady
  tmp : u.idx.toNat % 2 = 1 → reads[u.idx.toNat / 2]? = some u.tmp

theorem SameLatches.commandEntries_eq (h : SameLatches u v) (reads : List Byte) :
    v.commandEntries reads = u.commandEntries reads := by
  simp only [State.commandEntries, h.cfg, h.leftDb, h.rightDb, h.mute, h.op]

theorem SameLatches.codesReady_iff (h : SameLatches u v) : v.CodesReady ↔
    v.lcode = u.cfg.codeByte (channelOf u.op) (f32Value u.leftDb) ∧
      v.rcode = u.cfg.codeByte (channelOf u.op) (f32Value u.rightDb) := by
  rw [State.CodesReady, h.cfg, h.leftDb, h.rightDb, h.op]

/-- Transaction `n` of the command in the latches, when it is one of the move `mv`, whose read returns `b`. -/
def State.commandEntry (u : State) (n : Nat) (mv : GainMove) (b : Byte) : TraceEntry :=
  moveEntry u.cfg (f32Value u.leftDb) (f32Value u.rightDb) u.mute n mv b

theorem SameLatches.commandEntry_eq (h : SameLatches u v) (n : Nat) (mv : GainMove) (b : Byte) :
    v.commandEntry n mv b = u.commandEntry n mv b := by
  simp only [State.commandEntry, h.cfg, h.leftDb, h.rightDb, h.mute]

theorem State.commandEntries_getElem? (hmv : (gainMoves u.cfg (channelOf u.op))[n / 2]? = some mv)
    (hb : reads[n / 2]? = some b) : (u.commandEntries reads)[n]? = some (u.commandEntry n mv b) :=
  moveEntries_getElem? hmv hb

/-- `v` is the gain command of `u` with the transaction `x` done, and not ended. -/
structure CommandNext (base : List TraceEntry) (reads : List Byte) (x : TraceEntry) (u v : State) : Prop where
  same : SameCommand u v
  on : v.OnCommand base reads
  idx : v.idx.toNat = u.idx.toNat + 1
  trace : v.trace = u.trace ++ [x]

section Transaction

variable (h : u.OnCommand base reads) (hmv : (gainMoves u.cfg (channelOf u.op))[u.idx.toNat / 2]? = some mv)
  (hb : reads[u.idx.toNat / 2]? = some b)
include h hmv

/-- The read of a move finds the codes written, by its own entry or by the move before. -/
theorem State.OnCommand.codes_entered (hp : u.idx.toNat % 2 = 0) :
    (enterGain u.idx.toNat mv (f32Value u.leftDb) (f32Value u.rightDb) u).CodesReady := by
  rw [enterGain_even hp, gainMoves_ch (List.mem_of_getElem? hmv)]
  split
  · next hr => exact h.codes (pos_of_gainMove_right hmv hr)
  · exact ⟨rfl, rfl⟩

/-- The byte of the write-back is made of the byte read with the codes of the entry. -/
theorem State.OnCommand.fn_eq (hp : u.idx.toNat % 2 = 1) : mv.fn u.lcode u.rcode u.mute =
    mv.fn (u.cfg.codeByte mv.ch (f32Value u.leftDb)) (u.cfg.codeByte mv.ch (f32Value u.rightDb)) u.mute := by
  obtain ⟨hl, hr⟩ := h.codes (by omega)
  rw [hl, hr, gainMoves_ch (List.mem_of_getElem? hmv)]

include hb

theorem State.OnCommand.succ (hsame : SameCommand u v)
    (htrace : v.trace = u.trace ++ [u.commandEntry u.idx.toNat mv b]) (hidx : v.idx = u.idx + 1)
    (hcodes : v.CodesReady) (htmp : u.idx.toNat % 2 = 0 → v.tmp = b) :
    CommandNext base reads (u.commandEntry u.idx.toNat mv b) u v := by
  have hn : v.idx.toNat = u.idx.toNat + 1 := by
    have hlt := lt_of_gainMove hmv
    have hlen := gainMoves_length u.cfg (channelOf u.op)
    have hbound : u.idx.toNat + 1 < 2 ^ 16 := by omega
    rw [hidx, BitVec.toNat_add]
    exact Nat.mod_eq_of_lt hbound
  refine ⟨hsame, ⟨?_, fun _ => hcodes, fun hodd => ?_⟩, hn, htrace⟩
  · rw [hsame.latches.commandEntries_eq, hn, htrace, h.trace, List.take_add_one,
      State.commandEntries_getElem? hmv hb, List.append_assoc]
    rfl
  · have hhalf : (u.idx.toNat + 1) / 2 = u.idx.toNat / 2 := by omega
    rw [hn, hhalf, hb, htmp (by omega)]

/-- A read, answered with the byte to be read; a write-back follows. -/
theorem State.OnCommand.next_read (hp : u.idx.toNat % 2 = 0) (ht : u.env.transport = .script (.ok b :: rest)) :
    CommandNext base reads (u.commandEntry u.idx.toNat mv b) u (gainBody (channelOf u.op) u) ∧
      (gainBody (channelOf u.op) u).env.transport = .script rest := by
  have hbody := gainBody_read_ok hmv hp (Env.answerRead_script_ok ht u.cfg.lockAddr u.trace.length (mv.addr u.cfg))
  have hsame : SameCommand u (gainBody (channelOf u.op) u) := by
    rw [hbody]
    exact ⟨by constructor <;> simp, by simp, by simp, by simp, by simp, by simp [Env.withScript]⟩
  have hcodes : (gainBody (channelOf u.op) u).CodesReady := by
    rw [hsame.latches.codesReady_iff, hbody]
    simpa [State.CodesReady] using h.codes_entered hmv hp
  refine ⟨h.succ hmv hb hsame ?_ ?_ hcodes ?_, ?_⟩ <;> rw [hbody]
  · simp [State.commandEntry, moveEntry, hp]
  · exact fun _ => rfl
  · rfl

/-- A write-back, answered `Ok`: the last one ends the command. -/
theorem State.OnCommand.next_write (hp : u.idx.toNat % 2 = 1) (ht : u.env.transport = .script (.ok 0 :: rest)) :
    ∃ v, CommandNext base reads (u.commandEntry u.idx.toNat mv b) u v ∧ v.env.transport = .script rest ∧
      gainBody (channelOf u.op) u =
        if 2 * (gainMoves u.cfg (channelOf u.op)).length ≤ u.idx.toNat + 1 then v.ended .ok 0 v.failed else v := by
  obtain rfl : u.tmp = b := Option.some.inj ((h.tmp hp).symm.trans hb)
  obtain ⟨e, hanswer, htransport, -⟩ := Env.answerWrite_script_spec ht u.trace.length (mv.addr u.cfg)
    [(mv.fn u.lcode u.rcode u.mute).apply u.cfg u.tmp] 0
  obtain ⟨hmarks, -⟩ := Env.answerWrite_spec _ _ _ _ _ hanswer
  refine ⟨_, h.succ hmv hb ?_ ?_ rfl ?_ ?_, ?_, gainBody_write_ok hmv hp rfl hanswer⟩
  · exact ⟨⟨rfl, rfl, rfl, rfl, rfl, rfl, rfl⟩, rfl, rfl, rfl, rfl, hmarks.stimuli⟩
  · simp [State.commandEntry, moveEntry, hp, h.fn_eq hmv hp]
  · exact h.codes (by omega)
  · omega
  · exact htransport

/-- The next transaction, answered `Ok`, a read with the byte to be read. -/
theorem State.OnCommand.next_ok
    (ht : u.env.transport = .script ((if u.idx.toNat % 2 = 0 then .ok b else .ok 0) :: rest)) :
    ∃ v, CommandNext base reads (u.commandEntry u.idx.toNat mv b) u v ∧ v.env.transport = .script rest ∧
      gainBody (channelOf u.op) u =
        if 2 * (gainMoves u.cfg (channelOf u.op)).length ≤ u.idx.toNat + 1 then v.ended .ok 0 v.failed else v := by
  rcases Nat.mod_two_eq_zero_or_one u.idx.toNat with hp | hp
  · rw [if_pos hp] at ht
    obtain ⟨hnext, htransport⟩ := h.next_read hmv hb hp ht
    have hmore : ¬ 2 * (gainMoves u.cfg (channelOf u.op)).length ≤ u.idx.toNat + 1 := by
      have hlt := lt_of_gainMove hmv
      omega
    exact ⟨_, hnext, htransport, (if_neg hmore).symm⟩
  · rw [if_neg (by omega)] at ht
    exact h.next_write hmv hb hp ht

/-- The next transaction, answered `Fail`: the command ends with it. -/
theorem State.OnCommand.next_fail (ht : u.env.transport = .script (.fail :: rest)) :
    ∃ v, SameCommand u v ∧ v.trace = u.trace ++ [(u.commandEntry u.idx.toNat mv b).asFailed] ∧
      gainBody (channelOf u.op) u = v.ended (.err .busError) u.idx v.failed := by
  rcases Nat.mod_two_eq_zero_or_one u.idx.toNat with hp | hp
  · have hanswer := Env.answerRead_script_fail ht u.cfg.lockAddr u.trace.length (mv.addr u.cfg)
    refine ⟨_, ?_, ?_, (gainBody_read_fail hmv hp hanswer).trans (congrArg _ (enterGain_failed ..).symm)⟩
    · exact ⟨by constructor <;> simp, by simp, by simp, by simp, by simp, by simp [Env.withScript]⟩
    · simp [State.commandEntry, moveEntry, hp, TraceEntry.asFailed]
  · obtain rfl : u.tmp = b := Option.some.inj ((h.tmp hp).symm.trans hb)
    obtain ⟨e, hanswer, -⟩ := Env.answerWrite_script_spec ht u.trace.length (mv.addr u.cfg)
      [(mv.fn u.lcode u.rcode u.mute).apply u.cfg u.tmp] 0
    obtain ⟨hmarks, -⟩ := Env.answerWrite_spec _ _ _ _ _ hanswer
    refine ⟨_, ?_, ?_, gainBody_write_fail hmv hp rfl hanswer⟩
    · exact ⟨⟨rfl, rfl, rfl, rfl, rfl, rfl, rfl⟩, rfl, rfl, rfl, rfl, hmarks.stimuli⟩
    · simp [State.commandEntry, moveEntry, hp, TraceEntry.asFailed, h.fn_eq hmv hp]

end Transaction

/-! ### The steps of a gain command (R14) -/

/-- A legal gain command is in progress, and nothing but the block acts. -/
structure State.GainCommand (u : State) : Prop where
  wellFormed : u.cfg.wellFormed = true
  busy : u.busy = true
  notStart : u.op ≠ 0#3
  legal : u.op.toNat ≤ 5
  alone : u.env.stimuli = []

theorem State.GainCommand.of_same (h : a.GainCommand) (hs : SameCommand a u) : u.GainCommand :=
  ⟨by simpa [hs.latches.cfg] using h.wellFormed, hs.busy.trans h.busy, by simpa [hs.latches.op] using h.notStart,
    by simpa [hs.latches.op] using h.legal, hs.stimuli.trans h.alone⟩

/-- The step of a transaction, by whether the command ends with it. -/
theorem step_gain (h : (settle t).GainCommand) (hv : gainBody (channelOf (settle t).op) (settle t) = v) :
    (v.busy = false → step t = .next v) ∧
    (SameCommand (settle t) v → ∀ x, v.trace = (settle t).trace ++ [x] → ∃ t', step t = .next t' ∧ settle t' = v) := by
  obtain ⟨hw, hb, h0, h5, halone⟩ := h
  have hexec := exec_gain_busy hb h0 h5
  rw [hv] at hexec
  simp only [settle_cfg, settle_busy, settle_op, settle_leftDb, settle_rightDb, settle_mute, settle_env]
    at hw hb h0 halone hexec
  obtain ⟨-, -, hruns, -⟩ := stepRunsFetchedInstruction t hw halone
  obtain ⟨-, hland⟩ := hruns _ hb h0 (decode_of_encode (encode_opInstr ..))
  obtain ⟨hends, hgoes, -⟩ := hland v hexec
  refine ⟨hends, fun hsame x htrace => ?_⟩
  have hvb : v.busy = true := by simpa [hb] using hsame.busy
  obtain ⟨hstep, hsettle⟩ := hgoes hvb x (by simpa using htrace)
  have hstart : v.inStart = false := State.inStart_of_op_ne (by simpa [hsame.latches.op] using h0)
  exact ⟨_, hstep, hsettle.trans (skipEmpty_of_not_start hstart)⟩

/-- The gain command accepted in `a` has done its first `n` transactions in `t`, up to the writes still due. -/
structure CommandAt (a : State) (reads : List Byte) (n : Nat) (t : State) : Prop where
  same : SameCommand a (settle t)
  on : (settle t).OnCommand a.trace reads
  idx : (settle t).idx.toNat = n

theorem commandAt_zero (hdue : a.due = none) (hidx : a.idx = 0) (reads : List Byte) : CommandAt a reads 0 a := by
  have hset : settle a = a := settle_of_due_none hdue
  constructor <;> rw [hset]
  · exact sameCommand_refl a
  · exact ⟨by simp [hidx], by simp [hidx], by simp [hidx]⟩
  · simp [hidx]

section Step

variable (ha : a.GainCommand) (h : CommandAt a reads n t)
  (hmv : (gainMoves a.cfg (channelOf a.op))[n / 2]? = some mv) (hb : reads[n / 2]? = some b)
include ha h hmv hb

/-- The step of a transaction answered `Ok`. -/
theorem CommandAt.step_ok (ht : t.env.transport = .script ((if n % 2 = 0 then .ok b else .ok 0) :: rest)) :
    ∃ v, SameCommand a v ∧ v.OnCommand a.trace reads ∧ v.idx.toNat = n + 1 ∧ v.env.transport = .script rest ∧
      (2 * (gainMoves a.cfg (channelOf a.op)).length = n + 1 → step t = .next (v.ended .ok 0 v.failed)) ∧
      (n + 1 < 2 * (gainMoves a.cfg (channelOf a.op)).length → ∃ t', step t = .next t' ∧ settle t' = v) := by
  obtain ⟨hsame, hon, rfl⟩ := h
  rw [← hsame.latches.cfg, ← hsame.latches.op] at hmv ⊢
  rw [← settle_env] at ht
  obtain ⟨v, hnext, htransport, hbody⟩ := hon.next_ok hmv hb ht
  refine ⟨v, hsame.trans hnext.same, hnext.on, hnext.idx, htransport, fun hlast => ?_, fun hmore => ?_⟩
  · rw [if_pos hlast.le] at hbody
    exact (step_gain (ha.of_same hsame) hbody).1 rfl
  · rw [if_neg (by omega)] at hbody
    exact (step_gain (ha.of_same hsame) hbody).2 hnext.same _ hnext.trace

/-- The step of a transaction answered `Fail`. -/
theorem CommandAt.step_fail (ht : t.env.transport = .script (.fail :: rest)) :
    ∃ v, SameCommand a v ∧ step t = .next (v.ended (.err .busError) (BitVec.ofNat 16 n) v.failed) ∧
      v.trace = a.trace ++ (a.commandEntries reads).take n ++
        [(a.commandEntry n mv b).asFailed] := by
  obtain ⟨hsame, hon, rfl⟩ := h
  rw [← hsame.latches.cfg, ← hsame.latches.op] at hmv
  rw [← settle_env] at ht
  obtain ⟨v, hsv, htrace, hbody⟩ := hon.next_fail hmv hb ht
  refine ⟨v, hsame.trans hsv, ?_, ?_⟩
  · rw [BitVec.ofNat_toNat, BitVec.setWidth_eq]
    exact (step_gain (ha.of_same hsame) hbody).1 rfl
  · rw [htrace, hon.trace, hsame.latches.commandEntries_eq, hsame.latches.commandEntry_eq]

end Step

/-! ### Runs -/

/-- Two runs, one after the other. -/
theorem run_add_of_next (k : Nat) (hrun : Host.Core.run core n s = .next t) :
    Host.Core.run core (n + k) s = Host.Core.run core k t := by
  induction n generalizing s with
  | zero =>
    cases hrun
    rw [Nat.zero_add]
  | succ n ih =>
    rw [Nat.add_right_comm]
    cases hx : core.step s with
    | next v =>
      simp only [Host.Core.run, hx] at hrun ⊢
      exact ih hrun
    | fault _ | refused _ => simp [Host.Core.run, hx] at hrun

theorem run_one_of_step (h : step s = .next t) : Host.Core.run core 1 s = .next t := by
  have hstep : core.step s = .next t := h
  simp only [Host.Core.run, hstep]

theorem run_succ_of_step (hrun : Host.Core.run core n s = .next t) (h : step t = .next u) :
    Host.Core.run core (n + 1) s = .next u :=
  (run_add_of_next 1 hrun).trans (run_one_of_step h)

section Run

variable (ha : a.GainCommand) (hdue : a.due = none) (hidx : a.idx = 0)
  (hlen : reads.length = (gainMoves a.cfg (channelOf a.op)).length)
include ha hdue hidx hlen

/-- As many transactions are done as answers come, short of the last, by induction on their number. -/
theorem run_gain_oks (n : Nat) : ∀ rest, n < 2 * reads.length →
    a.env.transport = .script ((moveAnswers reads).take n ++ rest) →
    ∃ t, Host.Core.run core n a = .next t ∧ CommandAt a reads n t ∧ t.env.transport = .script rest := by
  induction n with
  | zero => exact fun rest _ ht => ⟨a, rfl, commandAt_zero hdue hidx reads, by simpa using ht⟩
  | succ n ih =>
    intro rest hn ht
    obtain ⟨mv, b, hmv, hb⟩ := exists_gainMove hlen (Nat.lt_of_succ_lt hn)
    rw [List.take_add_one, moveAnswers_getElem? hb, List.append_assoc] at ht
    obtain ⟨t, hrun, hat, htt⟩ := ih _ (Nat.lt_of_succ_lt hn) ht
    obtain ⟨v, hsame, hon, hvidx, htv, -, hmore⟩ := hat.step_ok ha hmv hb htt
    obtain ⟨t', hstep, rfl⟩ := hmore (by omega)
    exact ⟨t', run_succ_of_step hrun hstep, ⟨hsame, hon, hvidx⟩, by simpa using htv⟩

/-- All transactions answered `Ok`: the command ends with `OK` in the step of the last. -/
theorem run_gain_ok (ht : a.env.transport = .script (moveAnswers reads ++ rest)) :
    ∃ v, Host.Core.run core (2 * reads.length) a = .next (v.ended .ok 0 v.failed) ∧ SameCommand a v ∧
      v.trace = a.trace ++ a.commandEntries reads := by
  have hpos := gainMoves_length a.cfg (channelOf a.op)
  obtain ⟨n, hn⟩ : ∃ n, 2 * reads.length = n + 1 := ⟨2 * reads.length - 1, by omega⟩
  have hanswers : (moveAnswers reads).length = n + 1 := by simp [moveAnswers, mul_comm, ← hn]
  have hentries : (a.commandEntries reads).length = n + 1 := (moveEntries_length hlen).trans hn
  obtain ⟨mv, b, hmv, hb⟩ := exists_gainMove hlen (show n < 2 * reads.length by omega)
  rw [← List.take_of_length_le hanswers.le, List.take_add_one, moveAnswers_getElem? hb, List.append_assoc] at ht
  obtain ⟨t, hrun, hat, htt⟩ := run_gain_oks ha hdue hidx hlen n _ (by omega) ht
  obtain ⟨v, hsame, hon, hv, -, hlast, -⟩ := hat.step_ok ha hmv hb htt
  rw [hn]
  refine ⟨v, run_succ_of_step hrun (hlast (by omega)), hsame, ?_⟩
  rw [hon.trace, hsame.latches.commandEntries_eq, List.take_of_length_le (by omega)]

/-- The first `j` transactions answered `Ok`, and the next one `Fail`: the command ends with `BusError(j)`. -/
theorem run_gain_fail {j : Nat} (hj : j < (a.commandEntries reads).length)
    (ht : a.env.transport = .script ((moveAnswers reads).take j ++ .fail :: rest)) :
    ∃ v, Host.Core.run core (j + 1) a = .next (v.ended (.err .busError) (BitVec.ofNat 16 j) v.failed) ∧
      SameCommand a v ∧
      v.trace = a.trace ++ (a.commandEntries reads).take j ++ [(a.commandEntries reads)[j].asFailed] := by
  have hjreads : j < 2 * reads.length := moveEntries_length hlen ▸ hj
  obtain ⟨mv, b, hmv, hb⟩ := exists_gainMove hlen hjreads
  obtain ⟨t, hrun, hat, htt⟩ := run_gain_oks ha hdue hidx hlen j _ hjreads ht
  obtain ⟨v, hsame, hstep, htrace⟩ := hat.step_fail ha hmv hb htt
  have hentry := Option.some.inj ((List.getElem?_eq_getElem hj).symm.trans (State.commandEntries_getElem? hmv hb))
  exact ⟨v, run_succ_of_step hrun hstep, hsame, by rw [htrace, hentry]⟩

end Run

/-! ### A whole gain command -/

/-- `a` is `s`, a `Ready` idle block, with the gain command on its port accepted. -/
structure GainAccepted (op : BitVec 3) (l r : F32) (m : Bool) (more : List (BitVec 72)) (s a : State) : Prop where
  command : a.GainCommand
  latched : a.Latched more op l r m
  due : a.due = none
  idx : a.idx = 0
  cfg : a.cfg = s.cfg
  st : a.st = .ready
  failed : a.failed = s.failed
  responses : a.responses = s.responses
  trace : a.trace = s.trace
  env : a.env = s.env

variable {op : BitVec 3} {l r : F32} {m : Bool} {more : List (BitVec 72)}

/-- The step of the acceptance (R190, R191). -/
theorem step_accepts_gain (hw : s.cfg.wellFormed = true) (hb : s.busy = false) (hst : s.st = .ready)
    (hs : s.env.stimuli = []) (h0 : op ≠ 0#3) (h5 : op.toNat ≤ 5) (hu : s.cfg.inUse (channelOf op) = true)
    (hc : s.cmdIn = cmdWord 0 m op l r :: more) : ∃ a, step s = .next a ∧ GainAccepted op l r m more s a := by
  have hset : (settle s).st = .ready := (settle_st_of_not_start (by simp [State.inStart, hb])).trans hst
  obtain ⟨hword, -⟩ := stepRunsFetchedInstruction s hw hs
  have hstep := hword _ _ _ hb hc (decode_of_encode (encode_opInstr op l r m))
  rw [exec_gain_accepted l r m (by simpa using hb) (by simpa using hset) h0 h5 (by simpa using hu)] at hstep
  refine ⟨_, hstep, ⟨by simpa using hw, rfl, h0, h5, by simpa using hs⟩, ⟨rfl, rfl, rfl, rfl, rfl⟩, ?_, rfl, ?_, hset,
    ?_, ?_, ?_, ?_⟩ <;> simp

theorem GainAccepted.commandEntries (h : GainAccepted op l r m more s a) (reads : List Byte) :
    a.commandEntries reads =
      moveEntries s.cfg (f32Value l) (f32Value r) m (gainMoves s.cfg (channelOf op)) reads := by
  obtain ⟨-, hop, hmute, hleft, hright⟩ := h.latched
  simp only [State.commandEntries, h.cfg, hop, hmute, hleft, hright]

/-- What O37 says of the end of the command beside its trace. -/
theorem GainAccepted.answer (h : GainAccepted op l r m more s a) (hv : SameCommand a v) (k : Status)
    (i : BitVec 16) :
    let t := v.ended k i v.failed
    t.busy = false ∧ t.st = .ready ∧ t.failed = s.failed ∧ t.cmdIn = more ∧
      t.responses =
        s.responses ++ [i ++ 0#4 ++ BitVec.ofBool s.failed ++ SeqState.ready.code ++ 0#5 ++ k.code] := by
  rw [← h.st, ← h.failed, ← h.latched.cmdIn, ← h.responses]
  exact hv.answer k i

/-- Settles O37: the step of the acceptance, and then the run of `run_gain_ok` or of `run_gain_fail`. -/
theorem gainCommandRun : Obligations.GainCommandRun := by
  intro s op l r m more reads rest hw hb hst hs h1 h5 hu hc moves entries word hlen
  have h0 : op ≠ 0#3 := by
    rintro rfl
    exact absurd h1 (by decide)
  obtain ⟨a, hstep, hacc⟩ := step_accepts_gain hw hb hst hs h0 h5 hu hc
  have hrun (k : Nat) : Host.Core.run core (1 + k) s = Host.Core.run core k a :=
    run_add_of_next k (run_one_of_step hstep)
  have hentries : a.commandEntries reads = entries := hacc.commandEntries reads
  have hmoves : reads.length = (gainMoves a.cfg (channelOf a.op)).length := by rwa [hacc.cfg, hacc.latched.op]
  refine ⟨fun ht => ?_, fun j hj ht => ?_⟩
  · obtain ⟨v, hend, hsame, htrace⟩ := run_gain_ok hacc.command hacc.due hacc.idx hmoves (by rwa [hacc.env])
    obtain ⟨hbusy, hready, hfailed, hport, hresponses⟩ := hacc.answer hsame .ok 0
    rw [hentries, hacc.trace] at htrace
    exact ⟨_, by rw [hrun, ← hlen]; exact hend, hbusy, hready, hfailed, hport, htrace, hresponses, rfl, rfl⟩
  · clear_value entries
    subst hentries
    obtain ⟨v, hend, hsame, htrace⟩ := run_gain_fail hacc.command hacc.due hacc.idx hmoves hj (by rwa [hacc.env])
    obtain ⟨hbusy, hready, hfailed, hport, hresponses⟩ :=
      hacc.answer hsame (.err .busError) (BitVec.ofNat 16 j)
    rw [hacc.trace] at htrace
    exact ⟨_, (hrun _).trans hend, hbusy, hready, hfailed, hport, htrace, hresponses, rfl, rfl⟩

end Sys2Proof.Machine
end

section
/-! SUPPORT. RAISE (O30; R216), and the answer to a gain command that finds the block not ready (O33; R191, R220). -/

namespace Sys2Proof.Machine

variable {s : State} {op : BitVec 3}

/-! ### RAISE (R216) -/

/-- Settles O30: `raise_eq_ended`, where the operation in progress is a START or not. An idle block has no operation to
end; there the status and the response word are the model's reading (log 29). -/
theorem raiseEndsOperation : Obligations.RaiseEndsOperation := fun s k i =>
  congrArg Host.Outcome.next (raise_eq_ended s.inStart k i s)

/-! ### A gain command outside `Ready` (R191, R220) -/

/-- The readiness check's answer, with the operands latched and `IDX` cleared, ends the operation and keeps `FAILED`. -/
theorem raise_notReady_eq_ended (op : BitVec 3) (l r : F32) (m : Bool) (s : State) :
    raise false .notReady 0 { s.latch op l r m with idx := 0 } =
      State.ended { s with op := op, mute := m, leftDb := l, rightDb := r, idx := 0 } (.err .notReady) 0 s.failed := by
  rw [raise_eq_ended, Bool.or_false]
  rfl

/-- A gain command of an idle block outside `Ready` passes the legality check and fails the readiness check (R191). -/
theorem exec_gain_notReady (l r : F32) (m : Bool) (hb : s.busy = false) (hst : s.st ≠ .ready) (h0 : op ≠ 0#3)
    (h5 : op.toNat ≤ 5) (hu : s.cfg.inUse (channelOf op) = true) :
    exec (opInstr op l r m) s = .next
      (State.ended { s with op := op, mute := m, leftDb := l, rightDb := r, idx := 0 } (.err .notReady) 0 s.failed) := by
  have hlegal : ¬ (5 < op.toNat ∨ s.cfg.inUse (channelOf op) = false) := by simp [h5, hu]
  rw [exec_opInstr_idle s op l r m hb, if_neg h0, if_neg hlegal, if_pos hst, raise_notReady_eq_ended]

/-- Settles O33: `exec_gain_notReady` for the opcodes 1 to 5, whose channels are in use, `MIC_IN` with `HAS_MIC`. -/
theorem gainCommandsNotReady : Obligations.GainCommandsNotReady := fun _ l r m hb hst =>
  ⟨exec_gain_notReady (op := 1) l r m hb hst (by decide) (by decide) rfl,
    exec_gain_notReady (op := 2) l r m hb hst (by decide) (by decide) rfl,
    fun hmic => exec_gain_notReady (op := 3) l r m hb hst (by decide) (by decide) hmic,
    exec_gain_notReady (op := 4) l r m hb hst (by decide) (by decide) rfl,
    exec_gain_notReady (op := 5) l r m hb hst (by decide) (by decide) rfl⟩

end Sys2Proof.Machine
end

section
/-! SUPPORT. The clock-source hazard (O50; U1, R249, R251): what a step makes of the two marks, the locked read since
the last PLL write and the hazard itself. -/

namespace Sys2Proof.Machine

variable {s t u v : State} {e e' : Env} {pll : Bool} {bytes : List Byte}

/-! ### The two marks, and what leaves them alone -/

/-- The marks of U1 are the same. -/
structure Env.SameClockMarks (e e' : Env) : Prop where
  lockSeen : e'.lockSeen = e.lockSeen
  clkHazard : e'.clkHazard = e.clkHazard

theorem Env.SameClockMarks.trans {e'' : Env} (h : e.SameClockMarks e') (h' : e'.SameClockMarks e'') :
    e.SameClockMarks e'' :=
  ⟨h'.lockSeen.trans h.lockSeen, h'.clkHazard.trans h.clkHazard⟩

theorem Env.SameMarks.clock (h : e.SameMarks e') : e.SameClockMarks e' := ⟨h.lockSeen, h.clkHazard⟩

/-- What the codec changes itself sets no mark (log 12). -/
theorem Env.codecChange_sameClockMarks (cfg : Config) (a : Addr) (x : Option Byte) (e : Env) :
    e.SameClockMarks (e.event cfg (.codecChange a x)) := by
  cases x with
  | some b => exact (Env.learn_same a b e).clock
  | none =>
    simp only [Env.event]
    split
    · exact ((Env.draw_same e).trans (Env.learn_same a _ _)).clock
    · exact (Env.forget_same a 1 e).clock

/-- With no client's write and no reset of the codec, the events of a step set no mark. -/
theorem Env.happen_sameClockMarks (cfg : Config) (evs : List EnvEvent) :
    ∀ e : Env, (∀ ev ∈ evs, ev.ofClient = false) → .codecReset ∉ evs → e.SameClockMarks (e.happen cfg evs) := by
  induction evs with
  | nil => exact fun e _ _ => ⟨rfl, rfl⟩
  | cons ev evs ih =>
    intro e hclient hreset
    rw [List.mem_cons, not_or] at hreset
    have hev : e.SameClockMarks (e.event cfg ev) := by
      cases ev with
      | clientWrite a p => cases hclient _ List.mem_cons_self
      | codecChange a x => exact Env.codecChange_sameClockMarks cfg a x e
      | codecReset => exact absurd rfl hreset.1
    exact hev.trans (ih _ (fun ev h => hclient ev (List.mem_cons_of_mem _ h)) hreset.2)

/-- The intake of a step whose stimulus holds no client's write and no reset of the codec. -/
theorem intake_sameClockMarks (hclient : ∀ x ∈ s.env.stimuli.head?, ∀ ev ∈ x.events, ev.ofClient = false)
    (hreset : ∀ x ∈ s.env.stimuli.head?, .codecReset ∉ x.events) : s.env.SameClockMarks (intake s).env := by
  cases hs : s.env.stimuli with
  | nil =>
    rw [intake_of_no_stimuli hs]
    exact ⟨rfl, rfl⟩
  | cons x rest =>
    rw [intake_env_of_stimulus hs]
    rw [hs] at hclient hreset
    obtain ⟨hseen, hhazard⟩ :=
      Env.happen_sameClockMarks s.cfg x.events { s.env with stimuli := rest } (hclient x rfl) (hreset x rfl)
    exact ⟨hseen, hhazard⟩

/-! ### The write a state issues (R161 to R166) -/

/-- `ST` past the locked exit of T3. -/
def SeqState.PastLock (x : SeqState) : Prop := x ≠ .reset ∧ x ≠ .clockSourceDefault ∧ x ≠ .pllConfiguring

/-- Past the locked exit of T3 a locked read has been seen since the last PLL write. It is stated of a state in which
nothing is due. -/
def State.LockSeen (s : State) : Prop := s.st.PastLock → s.env.lockSeen = true

theorem State.lockInv_iff : s.LockInv ↔ s.env.clkHazard = false ∧ (settle s).LockSeen := by
  constructor
  · rintro ⟨safe, seen⟩
    exact ⟨safe, fun ⟨h0, h1, h2⟩ => by simpa using seen h0 h1 h2⟩
  · rintro ⟨safe, seen⟩
    exact ⟨safe, fun h0 h1 h2 => by simpa using seen ⟨h0, h1, h2⟩⟩

theorem State.startLocked_iff : s.StartLocked ↔ (s.inStart = true → (settle s).LockSeen) := by
  constructor
  · exact fun h hs ⟨h0, h1, h2⟩ => by simpa using h hs h0 h1 h2
  · exact fun h hs h0 h1 h2 => by simpa using h hs ⟨h0, h1, h2⟩

theorem lockSeen_of_reset (h : s.st = .reset) : s.LockSeen := fun hpast => absurd h hpast.1

theorem gainRequest_write {n : Nat} {moves : List GainMove} {m : Bool}
    (h : gainRequest n moves m u = some (.write pll bytes)) : pll = false := by
  unfold gainRequest at h
  (repeat' split at h) <;> simp_all

/-- The writes of the block: behind a locked read; the write of `CLKSEL_DEFAULT`; or a PLL write. -/
theorem requestOf_write_cases (hg : u.op ≠ 0#3 → u.st = .ready) (h : requestOf u = some (.write pll bytes)) :
    (u.st.PastLock ∧ pll = false) ∨
    (u.st = .reset ∧ bytes = encodeFrame u.cfg.clkselAddr [u.cfg.clkselDefault]) ∨
    (u.st = .clockSourceDefault ∧ ∃ k ∈ u.cfg.pllCommands.entries, bytes = encodeFrame k.addr k.payload) := by
  have hb := busy_of_requestOf h
  by_cases ho : u.op = 0#3
  · rw [requestOf_start u hb ho] at h
    cases hst : u.st <;> simp only [hst] at h
    case reset =>
      cases h
      exact .inr (.inl ⟨rfl, rfl⟩)
    case clockSourceDefault =>
      split at h
      · cases h
      · next k hk =>
        cases h
        exact .inr (.inr ⟨rfl, k, List.mem_of_getElem? hk, rfl⟩)
    case pllConfiguring | ready => cases h
    case pllLocked =>
      cases h
      exact .inl ⟨by simp [SeqState.PastLock], rfl⟩
    case clockSourcePll =>
      split at h <;> cases h
      exact .inl ⟨by simp [SeqState.PastLock], rfl⟩
    case boardConfiguring => exact .inl ⟨by simp [SeqState.PastLock], gainRequest_write h⟩
  · rw [requestOf_gain u hb ho] at h
    exact .inl ⟨by simp [SeqState.PastLock, hg ho], gainRequest_write h⟩

/-- A write of the block past the locked exit of T3 is no PLL write. -/
theorem requestOf_write_pll (hg : u.op ≠ 0#3 → u.st = .ready) (h : requestOf u = some (.write pll bytes))
    (hpast : u.st.PastLock) : pll = false := by
  obtain ⟨h0, h1, -⟩ := hpast
  rcases requestOf_write_cases hg h with ⟨-, hpll⟩ | ⟨hst, -⟩ | ⟨hst, -⟩
  · exact hpll
  · exact absurd hst h0
  · exact absurd hst h1

section Clean

variable (hw : u.cfg.wellFormed = true) (hc : profileClean u.cfg = true) (hg : u.op ≠ 0#3 → u.st = .ready)
  (hu : u.LockSeen)
include hw hc hg hu

/-- No write of the block marks the hazard: it comes behind a locked read, writes another byte than `CLKSEL_PLL` (R11
(4)), or goes to another register (`PROFILE_CLEAN`). -/
theorem noteWrite_clkHazard_of_request (hreq : requestOf u = some (.write pll bytes))
    (he : e.lockSeen = u.env.lockSeen) :
    (e.noteWrite u.cfg pll (frameAddr bytes) (framePayload bytes)).clkHazard = e.clkHazard := by
  obtain ⟨-, -, -, hsel, -⟩ := (Config.wellFormed_iff u.cfg).mp hw
  rcases requestOf_write_cases hg hreq with ⟨hpast, rfl⟩ | ⟨-, rfl⟩ | ⟨-, k, hk, rfl⟩
  · simp [Env.noteWrite, he, hu hpast]
  · have hne : u.cfg.clkselPll ≠ u.cfg.clkselDefault := fun h => hsel h.symm
    simp [Env.noteWrite, hne]
  · have hne : k.addr ≠ u.cfg.clkselAddr := by simpa using List.all_eq_true.mp hc k hk
    simp [Env.noteWrite, hne]

theorem BusyEffect.clkHazard (h : BusyEffect u t) : t.env.clkHazard = u.env.clkHazard := by
  cases h with
  | quiet _ _ _ env | ended _ env => rw [env]
  | wrote pll a p _ request _ answer _ env | writeFailed pll a p _ request _ answer _ env =>
    obtain ⟨hmarks, -⟩ := Env.answerWrite_spec _ _ _ _ _ answer
    have hwrite := noteWrite_clkHazard_of_request hw hc hg hu request hmarks.lockSeen
    rw [frameAddr_encodeFrame, framePayload_encodeFrame] at hwrite
    rw [env, hwrite, hmarks.clkHazard]
  | read _ _ _ _ answer _ env =>
    obtain ⟨hmarks, -⟩ := Env.answerRead_spec _ _ _ _ _ _ answer
    rw [env, Env.noteRead_clkHazard, hmarks.clkHazard]
  | readFailed _ _ _ answer _ env =>
    obtain ⟨hmarks, -⟩ := Env.answerRead_spec _ _ _ _ _ _ answer
    rw [env, hmarks.clkHazard]

end Clean

/-! ### A locked read stays seen, and T3 completes with one (R163, R171) -/

theorem BusyEffect.lockSeen_of_past (hg : u.op ≠ 0#3 → u.st = .ready) (h : BusyEffect u t) (hpast : u.st.PastLock)
    (hu : u.env.lockSeen = true) : t.env.lockSeen = true := by
  cases h with
  | quiet _ _ _ env | ended _ env => rwa [env]
  | wrote _ _ _ _ request _ answer _ env | writeFailed _ _ _ _ request _ answer _ env =>
    obtain ⟨hmarks, -⟩ := Env.answerWrite_spec _ _ _ _ _ answer
    rw [env, Env.noteWrite_lockSeen, hmarks.lockSeen, hu, requestOf_write_pll hg request hpast]
    rfl
  | read _ _ _ _ answer _ env =>
    obtain ⟨hmarks, -⟩ := Env.answerRead_spec _ _ _ _ _ _ answer
    simp [env, Env.noteRead, hmarks.lockSeen, hu]
  | readFailed _ _ _ answer _ env =>
    obtain ⟨hmarks, -⟩ := Env.answerRead_spec _ _ _ _ _ _ answer
    rw [env, hmarks.lockSeen, hu]

/-- A read that shows lock is seen. -/
theorem BusyEffect.lockSeen_of_locked (h : BusyEffect u t) {b : Byte} (hb : u.cfg.lockTest b = true)
    (ht : t.trace = u.trace ++ [.read u.cfg.devAddr u.cfg.lockAddr (some b)]) : t.env.lockSeen = true := by
  cases h with
  | read a b' _ _ _ trace env =>
    obtain ⟨rfl, rfl⟩ : u.cfg.lockAddr = a ∧ b = b' := by simpa using ht.symm.trans trace
    simp [env, Env.noteRead, hb]
  | quiet trace | wrote _ _ _ _ _ _ _ trace | writeFailed _ _ _ _ _ _ _ trace | readFailed _ _ _ _ trace
  | ended trace => simp [ht] at trace

/-- A step of a START comes past the locked exit of T3 only with a locked read. -/
theorem transition_lockSeen (ho : u.op = 0#3) (hu : u.LockSeen) (heff : BusyEffect u t)
    (hx : exec (transitionOf u.st) u = .next t) : t.LockSeen := by
  intro hpast
  by_cases hup : u.st.PastLock
  · exact heff.lockSeen_of_past (fun h => absurd ho h) hup (hu hup)
  · have hst : u.st = .pllConfiguring ∧ t.st = .pllLocked := by
      rcases transition_st hx with ht | ht <;> rw [ht] at hpast ⊢
      · exact absurd hpast hup
      · cases hst : u.st <;> simp_all [SeqState.PastLock, SeqState.successor]
    rw [hst.1] at hx
    obtain ⟨b, hb, htrace⟩ := execT3_locked hst.1 hx hst.2
    exact heff.lockSeen_of_locked hb htrace

/-- A gain command writes no `ST`. -/
theorem gainBody_lockSeen (hg : u.op ≠ 0#3 → u.st = .ready) (ho : u.op ≠ 0#3) (hu : u.LockSeen)
    (heff : BusyEffect u t) : t.LockSeen := by
  intro hpast
  rw [heff.st_of_gain ho] at hpast
  exact heff.lockSeen_of_past hg hpast (hu hpast)

/-! ### Landing (R14) -/

/-- Executing an operation in progress leaves what `settle_hold` asks for. -/
theorem BusyEffect.holdable (h : BusyEffect u t) (hl : SameLatches u t) (hd : u.due = none) : Holdable u t :=
  holdable_of_effect hd ((eq_or_ne u.op 0#3).imp id h.st_of_gain) hl

theorem lockSeen_skipEmpty (h : t.LockSeen) : (skipEmpty t).LockSeen := by
  intro hpast
  rw [skipEmpty_env]
  rcases skipEmpty_cases t with hskip | ⟨-, -, hskip⟩ | ⟨hst, -, -⟩
  · exact h (by rwa [hskip] at hpast)
  · rw [hskip] at hpast
    exact absurd rfl hpast.2.2
  · exact h (by simp [SeqState.PastLock, hst])

theorem lockSeen_land (hb : v.busy = true) (hv : (settle v).LockSeen) (heff : BusyEffect (settle v) t)
    (hl : SameLatches (settle v) t) (ht : t.LockSeen) : (settle (land v (settle v) t)).LockSeen := by
  have hhold := heff.holdable hl (settle_due v)
  rcases land_cases v (by simpa using hb) heff with ⟨-, h⟩ | ⟨-, -, -, h⟩ | ⟨-, -, -, h⟩ | ⟨htb, -, h⟩ <;> rw [h]
  · rwa [settle_of_due_none hhold.due]
  · exact hv
  · rwa [settle_of_due_none hhold.due]
  · rw [settle_hold _ _ hhold.due (by simpa using hhold.st htb)]
    exact lockSeen_skipEmpty ht

/-- Landing leaves the environment that the execution left, or the one before it. -/
theorem land_env_cases (hb : v.busy = true) (heff : BusyEffect (settle v) t) :
    (land v (settle v) t).env = t.env ∨ (land v (settle v) t).env = v.env := by
  rcases land_cases v (by simpa using hb) heff with ⟨-, h⟩ | ⟨-, -, -, h⟩ | ⟨-, -, -, h⟩ | ⟨-, -, h⟩ <;> rw [h]
  · exact .inl rfl
  · exact .inr rfl
  · exact .inl rfl
  · exact .inl rfl

/-! ### Every step keeps the marks as they must be -/

/-- A step from `s` to `t` leaves a locked read seen where it must be, and the hazard mark as it was. -/
structure KeepsClock (s t : State) : Prop where
  seen : (settle t).LockSeen
  clkHazard : t.env.clkHazard = s.env.clkHazard

/-- The environment a reset leaves: the write in flight is cut off (R241). -/
theorem applyRst_env (s : State) : (applyRst s).env = match nextRequest s with
    | some (.write pll bytes) => s.env.cutOff s.cfg pll bytes
    | _ => s.env := rfl

section Settled

variable (hw : v.cfg.wellFormed = true) (hc : profileClean v.cfg = true) (hinv : v.Inv) (hv : (settle v).LockSeen)
include hw hc hinv hv

/-- A reset cuts off a write that would not have marked the hazard. -/
theorem keepsClock_applyRst : KeepsClock v (applyRst v) := by
  refine ⟨lockSeen_of_reset rfl, ?_⟩
  rw [applyRst_env]
  split
  · next pll bytes hreq =>
    have hb : (settle v).busy = true := busy_of_requestOf hreq
    have hwrite := noteWrite_clkHazard_of_request (e := v.env) (by simpa using hw) (by simpa using hc)
      (hinv.settled.gainReady hb) hv hreq (by rw [settle_env])
    rw [settle_cfg] at hwrite
    exact ((Env.forget_same _ _ _).clkHazard).trans hwrite
  · rfl

/-- A step of an operation in progress, landed. -/
theorem keepsClock_land (hb : v.busy = true) (heff : BusyEffect (settle v) t) (hl : SameLatches (settle v) t)
    (ht : t.LockSeen) : KeepsClock v (land v (settle v) t) := by
  have hub : (settle v).busy = true := by simpa using hb
  refine ⟨lockSeen_land hb hv heff hl ht, ?_⟩
  rcases land_env_cases hb heff with h | h <;> rw [h]
  rw [heff.clkHazard (by simpa using hw) (by simpa using hc) (hinv.settled.gainReady hub) hv, settle_env]

end Settled

/-- With nothing due in the state after, the marks and an `ST` kept, or `Reset`, are enough. -/
theorem KeepsClock.of_nothing_due (hu : u.LockSeen) (hd : t.due = none) (hst : t.st = u.st ∨ t.st = .reset)
    (he : u.env.SameClockMarks t.env) : KeepsClock u t := by
  refine ⟨?_, he.clkHazard⟩
  rw [settle_of_due_none hd]
  intro hpast
  rcases hst with hst | hst <;> rw [hst] at hpast
  · exact he.lockSeen.trans (hu hpast)
  · exact absurd rfl hpast.1

theorem Env.noteStart_sameClockMarks (e : Env) : e.SameClockMarks e.noteStart := by
  unfold Env.noteStart
  (repeat' split) <;> exact ⟨rfl, rfl⟩

/-- The acceptance of a command leaves nothing due that was not, and reaches the environment only with a START. -/
theorem exec_opInstr_idle_due_env {op : BitVec 3} {l r : F32} {m : Bool} (hb : u.busy = false)
    (hx : exec (opInstr op l r m) u = .next t) :
    t.due = u.due ∧ t.env = if op = 0#3 then u.env.noteStart else u.env := by
  rw [exec_opInstr_idle u op l r m hb] at hx
  cases hx
  (repeat' split) <;> exact ⟨rfl, rfl⟩

/-- The START that an idle block accepts begins at `Reset` (R160). -/
theorem st_of_start_accepted {l r : F32} {m : Bool} (hb : u.busy = false)
    (hx : exec (opInstr 0#3 l r m) u = .next t) : t.st = .reset := by
  rw [exec_opInstr_idle u 0#3 l r m hb, if_pos rfl] at hx
  cases hx
  rfl

/-- The acceptance of a command writes `ST` only of a START, and sets no mark. -/
theorem keepsClock_accept {op : BitVec 3} {l r : F32} {m : Bool} (hb : u.busy = false) (hd : u.due = none)
    (hu : u.LockSeen) (hx : exec (opInstr op l r m) u = .next t) : KeepsClock u t := by
  obtain ⟨htd, hte⟩ := exec_opInstr_idle_due_env hb hx
  by_cases ho : op = 0#3
  · subst ho
    refine .of_nothing_due hu (htd.trans hd) (.inr (st_of_start_accepted hb hx)) ?_
    rw [hte, if_pos rfl]
    exact Env.noteStart_sameClockMarks u.env
  · refine .of_nothing_due hu (htd.trans hd) (.inl (exec_opInstr_idle_st_failed hb ho hx).1) ?_
    rw [hte, if_neg ho]
    exact ⟨rfl, rfl⟩

/-- Every step keeps the marks, when no other agent sets one in it. -/
theorem step_keepsClock (hinv : s.Inv) (hc : profileClean s.cfg = true) (hmarks : s.env.SameClockMarks (intake s).env)
    (hs : (settle s).LockSeen) (h : step s = .next t) : KeepsClock s t := by
  have hvinv : (intake s).Inv := hinv.after_intake
  have hvc : profileClean (intake s).cfg = true := by simpa using hc
  have hv : (settle (intake s)).LockSeen := by
    rw [settle_intake]
    intro hpast
    exact hmarks.lockSeen.trans (by simpa using hs hpast)
  have hkeep : ∀ t, KeepsClock (intake s) t → KeepsClock s t := fun t ⟨hseen, hhazard⟩ =>
    ⟨hseen, hhazard.trans hmarks.clkHazard⟩
  obtain ⟨hw, hcases⟩ := step_next_cases s h
  have hvw : (intake s).cfg.wellFormed = true := by simpa using hw
  rcases hcases with ⟨-, rfl⟩ | ⟨-, u, rfl, ⟨hb, ho, t0, hx, rfl⟩ | ⟨hb, -, h5, -⟩ | ⟨hb, ho, -, rfl⟩ | ⟨-, -, rfl⟩ |
    ⟨hb, w, rest, -, hx⟩⟩ <;> apply hkeep
  · exact keepsClock_applyRst hvw hvc hvinv hv
  · obtain ⟨heff, hl⟩ := transition_effect _ _ hb ho hx
    exact keepsClock_land hvw hvc hvinv hv (by simpa using hb) heff hl (transition_lockSeen ho hv heff hx)
  · exact absurd (hvinv.settled.legalOp hb).1 (by omega)
  · obtain ⟨heff, hl⟩ := gainBody_effect _ hb ho
    exact keepsClock_land hvw hvc hvinv hv (by simpa using hb) heff hl
      (gainBody_lockSeen (hvinv.settled.gainReady hb) ho hv heff)
  · exact ⟨by rwa [settle_of_due_none (settle_due _)], by rw [settle_env]⟩
  · have hport : KeepsClock { settle (intake s) with cmdIn := rest } t := by
      rcases hx with ⟨-, rfl⟩ | ⟨-, hx⟩
      · exact .of_nothing_due hv (settle_due (intake s)) (.inl rfl) ⟨rfl, rfl⟩
      · exact keepsClock_accept hb (settle_due (intake s)) hv hx
    exact ⟨hport.seen, hport.clkHazard.trans (by simp)⟩

/-! ### A START begins at `Reset` (R160) -/

/-- A START in progress after a step that had none before it was accepted in it. -/
theorem step_begins_start (hs : s.inStart = false) (h : step s = .next t) (ht : t.inStart = true) :
    (settle t).st = .reset := by
  obtain ⟨htb, hto⟩ := State.inStart_iff.mp ht
  obtain ⟨-, ⟨-, rfl⟩ | ⟨hr, u, rfl, ⟨hb, -⟩ | ⟨hb, -⟩ | ⟨hb, -, rfl⟩ | ⟨hb, w, rest, -, hx⟩⟩⟩ := step_effect h
  · cases htb
  · exact absurd (((step_latched_of_busy h hr hb).op).symm.trans hto) (by simpa [State.inStart, hb] using hs)
  · exact absurd (((step_latched_of_busy h hr hb).op).symm.trans hto) (by simpa [State.inStart, hb] using hs)
  · simp [hb] at htb
  · rcases hx with ⟨-, rfl⟩ | ⟨-, hx⟩
    · cases htb
    · have hidle : ({ settle (intake s) with cmdIn := rest } : State).busy = false := by simpa using hb
      obtain ⟨-, hop, -⟩ := latched_of_exec_idle hidle hx
      rw [← hop, hto] at hx
      rw [settle_of_due_none ((exec_opInstr_idle_due_env hidle hx).1.trans (settle_due (intake s)))]
      exact st_of_start_accepted hidle hx

/-! ### The stimuli of a step (log 9) -/

theorem BusyEffect.stimuli (h : BusyEffect u t) : t.env.stimuli = u.env.stimuli := by
  cases h with
  | quiet _ _ _ env | ended _ env => rw [env]
  | wrote _ _ _ _ _ _ answer _ env | writeFailed _ _ _ _ _ _ answer _ env =>
    obtain ⟨hmarks, -⟩ := Env.answerWrite_spec _ _ _ _ _ answer
    rw [env, Env.noteWrite_stimuli, hmarks.stimuli]
  | read _ _ _ _ answer _ env =>
    obtain ⟨hmarks, -⟩ := Env.answerRead_spec _ _ _ _ _ _ answer
    rw [env, Env.noteRead_stimuli, hmarks.stimuli]
  | readFailed _ _ _ answer _ env =>
    obtain ⟨hmarks, -⟩ := Env.answerRead_spec _ _ _ _ _ _ answer
    rw [env, hmarks.stimuli]

theorem Env.noteStart_stimuli (e : Env) : e.noteStart.stimuli = e.stimuli := by
  unfold Env.noteStart
  (repeat' split) <;> rfl

theorem applyRst_stimuli (s : State) : (applyRst s).env.stimuli = s.env.stimuli := by
  rw [applyRst_env]
  split
  · exact (Env.forget_same _ _ _).stimuli
  · rfl

/-- A step takes its stimulus off the list, and nothing else writes the list. -/
theorem step_stimuli (h : step s = .next t) : t.env.stimuli = s.env.stimuli.tail := by
  rw [← (intake_inputs s).2]
  obtain ⟨-, ⟨-, rfl⟩ | ⟨-, u, rfl, ⟨hb, t0, heff, -, rfl⟩ | ⟨hb, -, rfl⟩ | ⟨-, -, rfl⟩ |
    ⟨hb, w, rest, -, hx⟩⟩⟩ := step_effect h
  · exact applyRst_stimuli (intake s)
  · rcases land_env_cases (by simpa using hb) heff with h | h <;> rw [h]
    rw [heff.stimuli, settle_env]
  · rcases land_env_cases (v := intake s) (by simpa using hb) (.quiet rfl rfl rfl rfl (.inl rfl) rfl) with h | h <;>
      simp [h]
  · rw [settle_env]
  · rcases hx with ⟨-, rfl⟩ | ⟨-, hx⟩
    · simp [acceptBadWord, acceptIllegal]
    · rw [(exec_opInstr_idle_due_env (by simpa using hb) hx).2]
      split <;> simp [Env.noteStart_stimuli]

/-! ### The premises on other agents (R63, R244; log 35) -/

/-- `EXCL` at a step with an operation in progress: no client's write is among its events. -/
theorem State.not_ofClient_of_excl (h : s.excl = true) (hb : s.busy = true) :
    ∀ x ∈ s.env.stimuli.head?, ∀ ev ∈ x.events, ev.ofClient = false := by
  unfold State.excl at h
  cases hs : s.env.stimuli <;> simp_all

theorem Env.exclusive_iff : e.exclusive = true ↔ ∀ x ∈ e.stimuli, ∀ ev ∈ x.events, ev.ofClient = false := by
  simp [Env.exclusive]

theorem Env.noCodecReset_iff : e.noCodecReset = true ↔ ∀ x ∈ e.stimuli, .codecReset ∉ x.events := by
  simp [Env.noCodecReset]

/-- Settles O50: the marks of a START under `EXCL` (`step_keepsClock`), which begins at `Reset` (`step_begins_start`);
and those of every step, whose premise on the stimuli to come passes to the rest of them. -/
theorem clockHazardNeverMarked : Obligations.ClockHazardNeverMarked := by
  intro s t hinv hc h
  refine ⟨by rwa [(step_oneTransaction h).cfg], fun hstart hexcl hreset => ?_, fun hlock hexcl hreset => ?_⟩
  · rw [State.startLocked_iff] at hstart ⊢
    cases hs : s.inStart with
    | false => exact ⟨fun ht => lockSeen_of_reset (step_begins_start hs h ht), fun hs => by cases hs⟩
    | true =>
      have hmarks := intake_sameClockMarks (State.not_ofClient_of_excl hexcl (State.inStart_iff.mp hs).1) hreset
      have hkeep := step_keepsClock hinv hc hmarks (hstart hs) h
      exact ⟨fun _ => hkeep.seen, fun _ => hkeep.clkHazard⟩
  · rw [State.lockInv_iff] at hlock ⊢
    rw [Env.exclusive_iff] at hexcl ⊢
    rw [Env.noCodecReset_iff] at hreset ⊢
    obtain ⟨hsafe, hseen⟩ := hlock
    have hmarks := intake_sameClockMarks (fun x hx => hexcl x (List.mem_of_mem_head? hx))
      (fun x hx => hreset x (List.mem_of_mem_head? hx))
    have hkeep := step_keepsClock hinv hc hmarks hseen h
    rw [step_stimuli h]
    exact ⟨⟨hkeep.clkHazard.trans hsafe, hkeep.seen⟩, fun x hx => hexcl x (List.mem_of_mem_tail hx),
      fun x hx => hreset x (List.mem_of_mem_tail hx)⟩

end Sys2Proof.Machine
end

section
/-! SUPPORT. The reset of the block: a write in flight is cut off, and the codec is left alone beside it (O47; R240 to
R242). -/

namespace Sys2Proof.Machine

variable {s : State} {evs : List EnvEvent} {rest : List Stimulus} {pll : Bool} {a : Addr} {p : List Byte}

/-! ### A write cut off (R241, U11) -/

/-- A write cut off is a failed write, but for its marks. -/
theorem Env.cutOff_encodeFrame (cfg : Config) (pll : Bool) (a : Addr) (p : List Byte) (e : Env) :
    e.cutOff cfg pll (encodeFrame a p) = (e.noteWrite cfg pll a p).forget a p.length := by
  rw [Env.cutOff, frameAddr_encodeFrame, framePayload_encodeFrame]

@[simp] theorem Env.cutOff_transport (cfg : Config) (pll : Bool) (bytes : List Byte) (e : Env) :
    (e.cutOff cfg pll bytes).transport = e.transport := by simp [Env.cutOff]

theorem applyRst_transport (s : State) : (applyRst s).env.transport = s.env.transport := by
  rw [applyRst_env]
  split <;> simp

/-- The environment after a reset with a write in flight. -/
theorem applyRst_env_of_write (h : nextRequest s = some (.write pll (encodeFrame a p))) :
    (applyRst s).env = (s.env.noteWrite s.cfg pll a p).forget a p.length := by
  rw [applyRst_env, h]
  exact Env.cutOff_encodeFrame s.cfg pll a p s.env

/-- With no write in flight a reset leaves the environment alone. -/
theorem applyRst_env_of_no_write (h : ∀ pll bytes, nextRequest s ≠ some (.write pll bytes)) :
    (applyRst s).env = s.env := by
  rw [applyRst_env]
  split
  · next heq => exact absurd heq (h _ _)
  · rfl

/-! ### The step of a reset -/

theorem intake_peek_of_no_events (h : s.env.stimuli = ⟨true, []⟩ :: rest) (x : Nat) :
    (intake s).env.peek x = s.env.peek x := by
  rw [intake_env_of_stimulus h]
  rfl

/-- Settles O47: the step is `applyRst` after the events, and its environment is the one of a write cut off. -/
theorem resetAbandonsOperation : Obligations.ResetAbandonsOperation := by
  intro s evs rest hw hs
  obtain ⟨htransport, hstimuli⟩ := intake_inputs s
  refine ⟨?_, (applyRst (intake s)).env, ?_, ?_, ?_, fun pll a p hreq => ?_, fun hreq x => ?_⟩
  · rintro rfl x
    exact intake_peek_of_no_events hs x
  · rw [step_of_rst hw (rstHigh_of_stimulus hs)]
    simp [applyRst]
  · rw [applyRst_transport, htransport]
  · rw [applyRst_stimuli, hstimuli, hs]
    rfl
  · rw [applyRst_env_of_write ((nextRequest_intake s).trans hreq)]
    refine ⟨fun hm i hi => ?_, fun x hx => ?_⟩
    · refine Env.forget_peek_covered ?_ a hi
      rw [Env.noteWrite_isMock, Env.isMock_congr htransport, hm]
    · rw [Env.forget_frame _ _ _ _ hx, Env.noteWrite_peek]
  · rw [applyRst_env_of_no_write (by simpa only [nextRequest_intake] using hreq)]

end Sys2Proof.Machine
end

section
/-! SUPPORT. A transport that answers (for O58; R69): every transaction has an answer, and uses up at most one. -/

namespace Sys2Proof.Machine

variable {e e' : Env} {n : ℕ} {s u t : State}

/-! ### The answers to come -/

theorem Env.answersFor_of_mock {script : List Byte} {fails : List Nat} (h : e.transport = .mock script fails) (n : ℕ) :
    e.answersFor n := by simp [Env.answersFor, h]

theorem Env.answersFor_script_iff {l : List BusAnswer} (h : e.transport = .script l) :
    e.answersFor n ↔ n ≤ l.length := by simp [Env.answersFor, h]

theorem Env.answersFor_congr (h : e'.transport = e.transport) : e'.answersFor n ↔ e.answersFor n := by
  simp only [Env.answersFor, h]

theorem Env.answersFor_of_le {m : ℕ} (h : e.answersFor n) (hm : m ≤ n) : e.answersFor m := by
  cases ht : e.transport with
  | script l => exact (Env.answersFor_script_iff ht).mpr (hm.trans ((Env.answersFor_script_iff ht).mp h))
  | mock script fails => exact Env.answersFor_of_mock ht m

theorem Env.answersFor_of_isMock (h : e.isMock = true) (n : ℕ) : e.answersFor n := by
  cases ht : e.transport with
  | script l => simp [Env.isMock_of_script ht] at h
  | mock script fails => exact Env.answersFor_of_mock ht n

/-- A write uses up at most one answer. -/
theorem Env.answersFor_of_answerWrite {ord : ℕ} {a : Addr} {p : List Byte} {ok : Bool} (h : e.answersFor (n + 1))
    (ha : e.answerWrite ord (encodeFrame a p) = some (ok, e')) : e'.answersFor n := by
  cases ht : e.transport with
  | mock script fails =>
    obtain ⟨hmarks, -⟩ := Env.answerWrite_spec _ _ _ _ _ ha
    exact Env.answersFor_of_isMock (hmarks.isMock.trans (Env.isMock_of_mock ht)) n
  | script l =>
    have hlen := (Env.answersFor_script_iff ht).mp h
    cases l with
    | nil => simp at hlen
    | cons ans l =>
      obtain ⟨e'', hanswer, htransport, -⟩ := Env.answerWrite_script_spec ht ord a p 0
      rw [ha] at hanswer
      cases hanswer
      exact (Env.answersFor_script_iff htransport).mpr (Nat.le_of_succ_le_succ hlen)

/-- A read uses up at most one answer. -/
theorem Env.answersFor_of_answerRead {lock a : Addr} {ord : ℕ} {got : Option Byte} (h : e.answersFor (n + 1))
    (ha : e.answerRead lock ord a = some (got, e')) : e'.answersFor n := by
  cases ht : e.transport with
  | mock script fails =>
    obtain ⟨hmarks, -⟩ := Env.answerRead_spec _ _ _ _ _ _ ha
    exact Env.answersFor_of_isMock (hmarks.isMock.trans (Env.isMock_of_mock ht)) n
  | script l =>
    have hlen := (Env.answersFor_script_iff ht).mp h
    cases l with
    | nil => simp at hlen
    | cons ans l =>
      obtain ⟨got', e'', hanswer, htransport, -⟩ := Env.answerRead_script_spec ht lock ord a
      rw [ha] at hanswer
      cases hanswer
      exact (Env.answersFor_script_iff htransport).mpr (Nat.le_of_succ_le_succ hlen)

/-- Executing the operation in progress uses up at most one answer. -/
theorem BusyEffect.answersFor (h : BusyEffect u t) (hu : u.env.answersFor (n + 1)) : t.env.answersFor n := by
  cases h with
  | quiet _ _ _ env | ended _ env =>
    rw [env]
    exact Env.answersFor_of_le hu n.le_succ
  | wrote _ _ _ _ _ _ answer _ env | writeFailed _ _ _ _ _ _ answer _ env =>
    rw [env, Env.answersFor_congr (Env.noteWrite_transport ..)]
    exact Env.answersFor_of_answerWrite hu answer
  | read _ _ _ _ answer _ env =>
    rw [env, Env.answersFor_congr (Env.noteRead_transport ..)]
    exact Env.answersFor_of_answerRead hu answer
  | readFailed _ _ _ answer _ env =>
    rw [env]
    exact Env.answersFor_of_answerRead hu answer

/-! ### A state whose next transaction is answered -/

/-- The transport answers any transaction issued now. -/
structure State.Answered (s : State) : Prop where
  write : ∀ a p, ∃ r, s.answerWrite (encodeFrame a p) = some r
  read : ∀ a, ∃ r, s.answerRead a = some r

theorem Env.answerRead_mock (h : e.isMock = true) (lock : Addr) (ord : ℕ) (a : Addr) :
    ∃ r, e.answerRead lock ord a = some r := by
  unfold Env.isMock at h
  split at h
  · cases h
  · next heq =>
    simp only [Env.answerRead, heq]
    (repeat' split) <;> exact ⟨_, rfl⟩

theorem State.answered_of_answersFor (h : s.env.answersFor (n + 1)) : s.Answered := by
  cases ht : s.env.transport with
  | mock script fails =>
    have hm := Env.isMock_of_mock ht
    exact ⟨fun a p => Env.answerWrite_mock _ _ _ hm, fun a => Env.answerRead_mock hm _ _ a⟩
  | script l =>
    have hlen := (Env.answersFor_script_iff ht).mp h
    cases l with
    | nil => simp at hlen
    | cons ans l =>
      refine ⟨fun a p => ?_, fun a => ?_⟩
      · obtain ⟨e', hanswer, -⟩ := Env.answerWrite_script_spec ht s.trace.length a p 0
        exact ⟨_, hanswer⟩
      · obtain ⟨got, e', hanswer, -⟩ := Env.answerRead_script_spec ht s.cfg.lockAddr s.trace.length a
        exact ⟨_, hanswer⟩

end Sys2Proof.Machine
end

section
/-! SUPPORT. An operation in progress ends within the bound of its lists and `POLL_MAX` (O58; R258, R69, R255): each
transaction that is answered leaves fewer steps to take. -/

namespace Sys2Proof.Machine

variable {s t u v : State} {target : SeqState} {e : Env}

/-! ### The bound, by what the block is doing -/

/-- The steps a START still takes from position `n` of the transition that `ST` names. -/
def startSteps (cfg : Config) (n : ℕ) : SeqState → ℕ
  | .reset => 1 + max 1 cfg.pllCommands.entries.length + cfg.pollMax + 1 + max 1 cfg.boardTable.entries.length +
      (2 * (defaultMoves cfg).length + 1)
  | .clockSourceDefault => (max 1 cfg.pllCommands.entries.length - n) + cfg.pollMax + 1 +
      max 1 cfg.boardTable.entries.length + (2 * (defaultMoves cfg).length + 1)
  | .pllConfiguring => (cfg.pollMax - n) + 1 + max 1 cfg.boardTable.entries.length +
      (2 * (defaultMoves cfg).length + 1)
  | .pllLocked => 1 + max 1 cfg.boardTable.entries.length + (2 * (defaultMoves cfg).length + 1)
  | .clockSourcePll => (max 1 cfg.boardTable.entries.length - n) + (2 * (defaultMoves cfg).length + 1)
  | .boardConfiguring => (2 * (defaultMoves cfg).length + 1) - n
  | .ready => 1

theorem stepsLeft_of_start (hb : s.busy = true) (ho : s.op = 0#3) :
    s.stepsLeft = startSteps s.cfg s.pos.toNat s.st := by
  simp only [State.stepsLeft, hb, ho, if_true, Bool.not_true, Bool.false_eq_true, if_false]
  cases s.st <;> rfl

/-- A transition that begins stands at position 0. -/
theorem stepsLeft_goto (target : SeqState) (hb : v.busy = true) (ho : v.op = 0#3) :
    (goto target v).stepsLeft = startSteps v.cfg 0 target :=
  stepsLeft_of_start (s := goto target v) hb ho

theorem stepsLeft_of_gain (hb : s.busy = true) (ho : s.op ≠ 0#3) :
    s.stepsLeft = 2 * (gainMoves s.cfg (channelOf s.op)).length - s.idx.toNat := by
  simp [State.stepsLeft, hb, ho]

/-- The position of a START is below the length of its plan, or 0 (R35). -/
theorem State.BlockInv.pos_lt (h : u.BlockInv) (hb : u.busy = true) : u.pos.toNat < max 1 u.planLength := by
  cases hent : u.entered with
  | false => simp [State.pos, hent]
  | true =>
    rw [State.pos_of_entered hent]
    exact lt_max_of_lt_right (h.idxBound hb fun _ => hent)

theorem pollMax_pos {cfg : Config} (hw : cfg.wellFormed = true) : 1 ≤ cfg.pollMax := by
  obtain ⟨-, hpoll, -⟩ := (Config.wellFormed_iff cfg).mp hw
  exact hpoll

/-- T6 has a move to make. -/
theorem defaultMoves_length_pos (cfg : Config) : 0 < (defaultMoves cfg).length := by
  have := gainMoves_length cfg .lineIn
  simp only [defaultMoves, List.flatMap_cons, List.length_append]
  omega

theorem planLength_lt (hw : u.cfg.wellFormed = true) (ho : u.op = 0#3) : u.planLength < 2 ^ 16 := by
  obtain ⟨hpoll, hpll, hboard⟩ := Config.counts_lt hw
  have hmoves := defaultMoves_length_le u.cfg
  simp only [State.planLength, ho, if_true]
  cases u.st <;> simp only <;> omega

/-- An operation in progress has a step left. -/
theorem stepsLeft_pos (hinv : u.BlockInv) (hb : u.busy = true) : 0 < u.stepsLeft := by
  by_cases ho : u.op = 0#3
  · have hpos := hinv.pos_lt hb
    simp only [State.planLength, ho, if_true] at hpos
    rw [stepsLeft_of_start hb ho]
    cases hst : u.st <;> simp only [hst] at hpos <;> simp only [startSteps] <;> omega
  · have hidx := hinv.idxBound hb fun h => absurd h ho
    simp only [State.planLength, ho, if_false] at hidx
    rw [stepsLeft_of_gain hb ho]
    omega

/-- A list that is empty needs no step (R162, R165). -/
theorem stepsLeft_skipEmpty_le (t : State) : (skipEmpty t).stepsLeft ≤ t.stepsLeft := by
  cases hs : t.inStart with
  | false => rw [skipEmpty_of_not_start hs]
  | true =>
    obtain ⟨hb, ho⟩ := State.inStart_iff.mp hs
    rcases skipEmpty_cases t with h | ⟨hst, -, h⟩ | ⟨hst, -, h⟩ <;> rw [h]
    all_goals
      rw [stepsLeft_of_start hb ho, stepsLeft_goto _ (by simpa using hb) (by simpa using ho), hst, enter_cfg]
      simp only [startSteps]
      omega

/-! ### What one execution comes to -/

/-- What O58 needs of executing the operation in progress in `u`: it ends, or goes on with fewer steps to take, its
transaction done if it had one. -/
inductive Advances (u t : State) : Prop
  | ended (busy : t.busy = false)
  | goesOn (busy : t.busy = true) (moved : requestOf u = none ∨ t.trace ≠ u.trace) (fewer : t.stepsLeft < u.stepsLeft)

/-- `v` is what a transaction of the transition in progress, answered `Ok`, makes of `u` (R111, R113). -/
structure NextPosition (u v : State) : Prop where
  cfg : v.cfg = u.cfg
  op : v.op = u.op
  busy : v.busy = u.busy
  st : v.st = u.st
  entered : v.entered = true
  idx : v.idx = u.pos + 1
  trace : v.trace ≠ u.trace

section Start

variable (hw : u.cfg.wellFormed = true) (hb : u.busy = true) (ho : u.op = 0#3)
include hw hb ho

/-- Another transaction of the same transition follows. -/
theorem NextPosition.advances (h : NextPosition u v) (hlt : u.pos.toNat + 1 < u.planLength) : Advances u v := by
  refine .goesOn (h.busy.trans hb) (.inr h.trace) ?_
  have hpos := pos_succ h.entered h.idx (hlt.trans (planLength_lt hw ho))
  simp only [State.planLength, ho, if_true] at hlt
  rw [stepsLeft_of_start hb ho, stepsLeft_of_start (h.busy.trans hb) (h.op.trans ho), h.cfg, h.st, hpos]
  cases hst : u.st <;> simp only [hst] at hlt <;> simp only [startSteps] <;> omega

variable (hinv : u.BlockInv)
include hinv

/-- The transition after this one begins. -/
theorem advances_goto (hr : u.st ≠ .ready) (ht : u.st.successor = target) (hcfg : v.cfg = u.cfg) (hvb : v.busy = u.busy)
    (hvo : v.op = u.op) (hm : requestOf u = none ∨ v.trace ≠ u.trace) : Advances u (goto target v) := by
  refine .goesOn (hvb.trans hb) hm ?_
  have hpos := hinv.pos_lt hb
  have hpoll := pollMax_pos hw
  have hmoves := defaultMoves_length_pos u.cfg
  simp only [State.planLength, ho, if_true] at hpos
  rw [stepsLeft_of_start hb ho, stepsLeft_goto target (hvb.trans hb) (hvo.trans ho), hcfg, ← ht]
  cases hst : u.st <;> simp only [hst] at hpos hr <;> simp only [SeqState.successor, startSteps]
  case ready => exact absurd rfl hr
  all_goals omega

/-- A transaction of a list: the last one completes the transition. -/
theorem NextPosition.advances_list (h : NextPosition u v) (hr : u.st ≠ .ready) (ht : u.st.successor = target) :
    Advances u (if u.planLength ≤ u.pos.toNat + 1 then goto target v else v) := by
  split
  · exact advances_goto hw hb ho hinv hr ht h.cfg h.busy h.op (.inr h.trace)
  · next hlt => exact h.advances hw hb ho (not_le.mp hlt)

variable (ha : u.Answered)
include ha

theorem clkselStep_advances (b : Byte) (hr : u.st ≠ .ready) (ht : u.st.successor = target) :
    Advances u (clkselStep b target (enter u)) := by
  obtain ⟨⟨ok, e⟩, h⟩ := ha.write u.cfg.clkselAddr [b]
  cases ok with
  | false =>
    rw [clkselStep_fail (by simpa using h)]
    exact .ended rfl
  | true =>
    have hsend := send_ok (s := enter u) false u.cfg.clkselAddr [b] (by simpa using h)
    simp only [clkselStep, enter_cfg, hsend]
    exact advances_goto hw hb ho hinv hr ht (by simp) (by simp) (by simp) (.inr (by simp))

theorem execT2_advances (hst : u.st = .clockSourceDefault) : ∃ t, execT2 u = .next t ∧ Advances u t := by
  have hr : u.st ≠ .ready := by simp [hst]
  have ht : u.st.successor = .pllConfiguring := by rw [hst]; rfl
  cases hc : u.cfg.pllCommands with
  | boardError => exact ⟨_, execT2_boardError hc, .ended rfl⟩
  | ok cmds =>
    have hlen : u.planLength = cmds.length := by simp [State.planLength, ho, hst, hc, HookResult.entries]
    cases hk : cmds[u.pos.toNat]? with
    | none =>
      refine ⟨_, execT2_end hc (List.getElem?_eq_none_iff.mp hk), ?_⟩
      refine advances_goto hw hb ho hinv hr ht (by simp) (by simp) (by simp) (.inl ?_)
      simp only [requestOf_start u hb ho, hst, hc, HookResult.entries, enter_idx_eq_pos, hk]
    | some k =>
      have hp : k.payload ≠ [] := by
        obtain ⟨-, -, -, -, -, -, -, -, -, hpay, -⟩ := (Config.wellFormed_iff u.cfg).mp hw
        exact (Config.payloadsOk_iff u.cfg).mp hpay k (by simpa [hc, HookResult.entries] using List.mem_of_getElem? hk)
      obtain ⟨⟨ok, e⟩, h⟩ := ha.write k.addr k.payload
      cases ok with
      | false => exact ⟨_, execT2_fail hc hk hp (by simpa using h), .ended rfl⟩
      | true =>
        refine ⟨_, execT2_ok hc hk hp (by simpa using h), ?_⟩
        rw [← hlen]
        exact NextPosition.advances_list hw hb ho hinv (by constructor <;> simp [State.pos]) hr ht

theorem execT3_advances (hst : u.st = .pllConfiguring) : ∃ t, execT3 u = .next t ∧ Advances u t := by
  have hr : u.st ≠ .ready := by simp [hst]
  have ht : u.st.successor = .pllLocked := by rw [hst]; rfl
  have hlen : u.planLength = u.cfg.pollMax := by simp [State.planLength, ho, hst]
  obtain ⟨hcnt, hlt⟩ := hinv.poll_pos hw (State.inStart_iff.mpr ⟨hb, ho⟩) hst
  obtain ⟨hmax, -, -⟩ := Config.counts_lt hw
  obtain ⟨⟨got, e⟩, h⟩ := ha.read u.cfg.lockAddr
  cases got with
  | none => exact ⟨_, execT3_fail (by simpa using h), .ended rfl⟩
  | some b =>
    refine ⟨_, execT3_ok (by simpa using h), ?_⟩
    rw [hcnt]
    split
    · exact advances_goto hw hb ho hinv hr ht (by simp) (by simp) (by simp) (.inr (by simp))
    · split
      · exact .ended rfl
      · next hmore =>
        refine NextPosition.advances hw hb ho (by constructor <;> simp [State.pos]) ?_
        rw [hlen]
        bv_omega

theorem execT5_advances (hst : u.st = .clockSourcePll) : ∃ t, execT5 u = .next t ∧ Advances u t := by
  have hr : u.st ≠ .ready := by simp [hst]
  have ht : u.st.successor = .boardConfiguring := by rw [hst]; rfl
  cases hc : u.cfg.boardTable with
  | boardError => exact ⟨_, execT5_boardError hc, .ended rfl⟩
  | ok rows =>
    have hlen : u.planLength = rows.length := by simp [State.planLength, ho, hst, hc, HookResult.entries]
    cases hk : rows[u.pos.toNat]? with
    | none =>
      refine ⟨_, execT5_end hc (List.getElem?_eq_none_iff.mp hk), ?_⟩
      refine advances_goto hw hb ho hinv hr ht (by simp) (by simp) (by simp) (.inl ?_)
      simp only [requestOf_start u hb ho, hst, hc, HookResult.entries, enter_idx_eq_pos, hk]
    | some row =>
      obtain ⟨⟨ok, e⟩, h⟩ := ha.write row.addr [row.value]
      cases ok with
      | false => exact ⟨_, execT5_fail hc hk (by simpa using h), .ended rfl⟩
      | true =>
        refine ⟨_, execT5_ok hc hk (by simpa using h), ?_⟩
        rw [← hlen]
        exact NextPosition.advances_list hw hb ho hinv (by constructor <;> simp [State.pos]) hr ht

theorem execT6_advances (hst : u.st = .boardConfiguring) : ∃ t, execT6 u = .next t ∧ Advances u t := by
  have hr : u.st ≠ .ready := by simp [hst]
  have ht : u.st.successor = .ready := by rw [hst]; rfl
  have hlen : u.planLength = 2 * (defaultMoves u.cfg).length := by simp [State.planLength, ho, hst]
  have hmoves := defaultMoves_length_pos u.cfg
  have hlt := hinv.pos_lt hb
  obtain ⟨mv, hmv⟩ : ∃ mv, (defaultMoves u.cfg)[u.pos.toNat / 2]? = some mv :=
    ⟨_, List.getElem?_eq_getElem (by omega)⟩
  rcases Nat.mod_two_eq_zero_or_one u.pos.toNat with hp | hp
  · obtain ⟨⟨got, e⟩, h⟩ := ha.read (mv.addr u.cfg)
    cases got with
    | none => exact ⟨_, execT6_read_fail hmv hp h, .ended rfl⟩
    | some b =>
      refine ⟨_, execT6_read_ok hmv hp h, NextPosition.advances hw hb ho (by constructor <;> simp) ?_⟩
      omega
  · obtain ⟨⟨ok, e⟩, h⟩ := ha.write (mv.addr u.cfg) [(mv.fn u.lcode u.rcode false).apply u.cfg u.tmp]
    cases ok with
    | false => exact ⟨_, execT6_write_fail hmv hp rfl h, .ended rfl⟩
    | true =>
      refine ⟨_, execT6_write_ok hmv hp rfl h, ?_⟩
      rw [← hlen]
      exact NextPosition.advances_list hw hb ho hinv (by constructor <;> simp) hr ht

/-- A START whose transaction is answered, by its transition (R160 to R167). -/
theorem transition_advances : ∃ t, exec (transitionOf u.st) u = .next t ∧ Advances u t := by
  cases hst : u.st
  case reset =>
    exact ⟨_, rfl, clkselStep_advances hw hb ho hinv ha _ (by simp [hst]) (by rw [hst]; rfl)⟩
  case clockSourceDefault => exact execT2_advances hw hb ho hinv ha hst
  case pllConfiguring => exact execT3_advances hw hb ho hinv ha hst
  case pllLocked =>
    exact ⟨_, rfl, clkselStep_advances hw hb ho hinv ha _ (by simp [hst]) (by rw [hst]; rfl)⟩
  case clockSourcePll => exact execT5_advances hw hb ho hinv ha hst
  case boardConfiguring => exact execT6_advances hw hb ho hinv ha hst
  case ready => exact ⟨_, rfl, .ended rfl⟩

end Start

/-! ### A gain command -/

section Gain

variable (hinv : u.BlockInv) (hb : u.busy = true) (ho : u.op ≠ 0#3)
include hinv hb ho

/-- Another transaction of the gain command follows. -/
theorem advances_gain (hcfg : v.cfg = u.cfg) (hop : v.op = u.op) (hvb : v.busy = u.busy) (hidx : v.idx = u.idx + 1)
    (htr : v.trace ≠ u.trace) : Advances u v := by
  refine .goesOn (hvb.trans hb) (.inr htr) ?_
  have hlt := hinv.idxBound hb fun h => absurd h ho
  have hmoves := gainMoves_length u.cfg (channelOf u.op)
  simp only [State.planLength, ho, if_false] at hlt
  rw [stepsLeft_of_gain hb ho, stepsLeft_of_gain (hvb.trans hb) (hop ▸ ho), hcfg, hop, hidx]
  bv_omega

theorem gainBody_advances (ha : u.Answered) : Advances u (gainBody (channelOf u.op) u) := by
  have hlt := hinv.idxBound hb fun h => absurd h ho
  simp only [State.planLength, ho, if_false] at hlt
  obtain ⟨mv, hmv⟩ : ∃ mv, (gainMoves u.cfg (channelOf u.op))[u.idx.toNat / 2]? = some mv :=
    ⟨_, List.getElem?_eq_getElem (by omega)⟩
  rcases Nat.mod_two_eq_zero_or_one u.idx.toNat with hp | hp
  · obtain ⟨⟨got, e⟩, h⟩ := ha.read (mv.addr u.cfg)
    cases got with
    | none =>
      rw [gainBody_read_fail hmv hp h]
      exact .ended rfl
    | some b =>
      rw [gainBody_read_ok hmv hp h]
      exact advances_gain hinv hb ho (by simp) (by simp) (by simp) rfl (by simp)
  · obtain ⟨⟨ok, e⟩, h⟩ := ha.write (mv.addr u.cfg) [(mv.fn u.lcode u.rcode u.mute).apply u.cfg u.tmp]
    cases ok with
    | false =>
      rw [gainBody_write_fail hmv hp rfl h]
      exact .ended rfl
    | true =>
      rw [gainBody_write_ok hmv hp rfl h]
      split
      · exact .ended rfl
      · exact advances_gain hinv hb ho rfl rfl rfl rfl (by simp)

end Gain

/-! ### A step (R14) -/

/-- The premises of O58: nothing but the block acts, and the transport answers the transactions to come. -/
structure State.Ending (s : State) : Prop where
  wellFormed : s.cfg.wellFormed = true
  inv : s.Inv
  alone : s.env.stimuli = []
  answers : s.env.answersFor (settle s).stepsLeft

/-- What the block runs, with an operation in progress whose transaction is answered. -/
theorem exists_advances (hw : u.cfg.wellFormed = true) (hinv : u.BlockInv) (hb : u.busy = true) (ha : u.Answered) :
    ∃ i t, fetch u = .run i ∧ exec i u = .next t ∧ BusyEffect u t ∧ SameLatches u t ∧ Advances u t := by
  by_cases ho : u.op = 0#3
  · obtain ⟨t, hx, hadv⟩ := transition_advances hw hb ho hinv ha
    obtain ⟨heff, hl⟩ := transition_effect u t hb ho hx
    exact ⟨_, t, fetch_start u hb ho, hx, heff, hl, hadv⟩
  · obtain ⟨heff, hl⟩ := gainBody_effect u hb ho
    exact ⟨_, _, fetch_gain u hb ho, exec_gain_busy hb ho (hinv.legalOp hb).1, heff, hl,
      gainBody_advances hinv hb ho ha⟩

/-- Landed, an execution that goes on with fewer steps to take leaves fewer of them, and its own environment. -/
theorem stepsLeft_land (hb : v.busy = true) (heff : BusyEffect (settle v) t) (hl : SameLatches (settle v) t)
    (htb : t.busy = true) (hm : requestOf (settle v) = none ∨ t.trace ≠ (settle v).trace) :
    (land v (settle v) t).busy = true ∧ (land v (settle v) t).env = t.env ∧
      (settle (land v (settle v) t)).stepsLeft ≤ t.stepsLeft := by
  have hhold := heff.holdable hl (settle_due v)
  rcases land_cases v (by simpa using hb) heff with ⟨hidle, -⟩ | ⟨-, htr, hreq, -⟩ | ⟨-, -, -, h⟩ | ⟨-, -, h⟩
  · exact absurd (hidle.symm.trans htb) (by decide)
  · rcases hm with hm | hm
    · simp [hm] at hreq
    · exact absurd htr hm
  · rw [h, settle_of_due_none hhold.due]
    exact ⟨htb, rfl, le_rfl⟩
  · rw [h, settle_hold _ _ hhold.due (by simpa using hhold.st htb)]
    exact ⟨htb, rfl, stepsLeft_skipEmpty_le t⟩

/-- A step of an operation in progress ends it, or leaves it with fewer steps to take. -/
theorem State.Ending.step (h : s.Ending) (hb : s.busy = true) : ∃ t, step s = .next t ∧
    (t.busy = false ∨ (t.busy = true ∧ t.Ending ∧ (settle t).stepsLeft < (settle s).stepsLeft)) := by
  obtain ⟨hw, hinv, hs, hans⟩ := h
  have hub : (settle s).busy = true := by simpa using hb
  obtain ⟨n, hn⟩ := Nat.exists_eq_add_of_lt (stepsLeft_pos hinv.settled hub)
  rw [Nat.zero_add] at hn
  have huans : (settle s).env.answersFor (n + 1) := by rwa [settle_env, ← hn]
  obtain ⟨i, t, hf, hx, heff, hl, hadv⟩ := exists_advances (by simpa using hw) hinv.settled hub
    (State.answered_of_answersFor huans)
  have hin : intake s = s := intake_of_no_stimuli hs
  have hstep := step_of_busy hw (rstHigh_of_no_stimuli hs) hb (by rwa [hin])
  rw [hin, hx, landOutcome] at hstep
  refine ⟨_, hstep, ?_⟩
  cases hadv with
  | ended busy => exact .inl (by rw [land_ended _ _ _ busy, busy])
  | goesOn busy moved fewer =>
    obtain ⟨hlb, hle, hsteps⟩ := stepsLeft_land hb heff hl busy moved
    refine .inr ⟨hlb, ⟨?_, stepKeepsInvariant s _ hinv hstep, ?_, ?_⟩, hsteps.trans_lt fewer⟩
    · rwa [(step_oneTransaction hstep).cfg]
    · rw [step_stimuli hstep, hs]
      rfl
    · rw [hle]
      exact Env.answersFor_of_le (heff.answersFor huans) (by omega)

/-- Settles O58, by induction on the bound (`State.Ending.step`). -/
theorem operationEnds : Obligations.OperationEnds := by
  intro s hw hinv hb hs hans
  have h : s.Ending := ⟨hw, hinv, hs, hans⟩
  clear hw hinv hs hans
  induction hn : (settle s).stepsLeft using Nat.strong_induction_on generalizing s with
  | _ n ih =>
    obtain ⟨t, hstep, ht⟩ := h.step hb
    have hpos : 0 < n := hn ▸ stepsLeft_pos h.inv.settled (by simpa using hb)
    rcases ht with htb | ⟨htb, htend, hlt⟩
    · exact ⟨1, hpos, t, run_one_of_step hstep, htb⟩
    · obtain ⟨k, hk, v, hrun, hvb⟩ := ih _ (hn ▸ hlt) t htb htend rfl
      exact ⟨1 + k, by omega, v, (run_add_of_next k (run_one_of_step hstep)).trans hrun, hvb⟩

end Sys2Proof.Machine
end
